-- ==== Sys2Proof/Word.lean ====
section
/-! DEFINITION. The word types of the block (00_scope.md R7, R10). -/

namespace Sys2Proof

/-- A byte of a serialised operation word (20_memory.md R75). -/
abbrev Byte := BitVec 8
/-- A 64-bit operation word (30_encoding.md R100). -/
abbrev OpWord := BitVec 64
/-- A 48-bit command record (30_encoding.md R110). -/
abbrev Rec := BitVec 48
/-- A 32-bit parameter register word (10_state.md R30). -/
abbrev ParamWord := BitVec 32
/-- A 10-bit parameter address (10_state.md R30). -/
abbrev ParamAddr := BitVec 10
/-- A 16-bit field code of 00_scope.md R12. -/
abbrev Code := BitVec 16
/-- A MIDI note 0..127, format U7 (00_scope.md R12). -/
abbrev Note := BitVec 7

/-- A parameter bank (10_state.md R29, R30) as the list of the addresses whose word differs from the reset word of R58,
addresses strictly rising. An address it does not list holds its reset word. Log entry 7. -/
abbrev Bank := List (Nat × ParamWord)

end Sys2Proof
end

