-- ==== Sys2Proof/Syntax.lean ====
section
/-! DEFINITION. The instructions: one constructor per row of spec/opcode_table.json, and the names the rules use
for envelope types, lines, waveforms and patterns. -/

namespace Sys2Proof

/-- The three envelope types of 10_state.md R31. -/
inductive EnvType where
  | dcw | dca | pitch
deriving DecidableEq, Repr

/-- The two timbre lines (10_state.md R31). -/
inductive Line where
  | one | two
deriving DecidableEq, Repr

/-- The waveforms of 41_oscillator.md R144. -/
inductive Wave where
  | saw | square | pulse | dsine | reso1 | reso2 | reso3
deriving DecidableEq, Repr

/-- The arpeggiator patterns of 46_arpeggiator.md R349. -/
inductive Pattern where
  | up | down | upDown | random | asPlayed
deriving DecidableEq, Repr

/-- One operation word (30_encoding.md R100) or one command record (R110), its operand fields as they stand in
the word. The first sixteen constructors are the opcodes 0x0 to 0xF, the last sixteen the record types 0 to 15. -/
inductive Instr where
  | nop
  | noteOn (note : Note) (vel : Code)
  | noteOff (note : Note)
  | allNotesOff
  | setModwheel (val : Code)
  | setAftertouch (val : Code)
  | setPitchbend (val : Code)
  | reserved7
  | paramWrite (addr : ParamAddr) (data : ParamWord)
  | snapPublish
  | cmdPush (record : Rec)
  | setLfo (val : Code)
  | reservedC
  | reservedD
  | reservedE
  | tick (count : BitVec 32)
  | dcwStage (line : BitVec 2) (index : BitVec 4) (rate : Code) (level : Code)
  | dcaStage (line : BitVec 2) (index : BitVec 4) (rate : Code) (level : Code)
  | pitchStage (line : BitVec 2) (index : BitVec 4) (rate : Code) (level : Code)
  | dcwSustain (line : BitVec 2) (index : BitVec 4)
  | dcaSustain (line : BitVec 2) (index : BitVec 4)
  | pitchSustain (line : BitVec 2) (index : BitVec 4)
  | dcwEnd (line : BitVec 2) (index : BitVec 4)
  | dcaEnd (line : BitVec 2) (index : BitVec 4)
  | pitchEnd (line : BitVec 2) (index : BitVec 4)
  | cmdReserved9
  | cmdReserved10
  | cmdReserved11
  | cmdReserved12
  | cmdReserved13
  | cmdReserved14
  | cmdReserved15
deriving DecidableEq, Repr

/-- Is the instruction a command record (30_encoding.md R110) rather than an operation word (R100)? -/
def Instr.isRecord : Instr → Bool
  | .nop | .noteOn _ _ | .noteOff _ | .allNotesOff | .setModwheel _ | .setAftertouch _ | .setPitchbend _
  | .reserved7 | .paramWrite _ _ | .snapPublish | .cmdPush _ | .setLfo _ | .reservedC | .reservedD
  | .reservedE | .tick _ => false
  | .dcwStage _ _ _ _ | .dcaStage _ _ _ _ | .pitchStage _ _ _ _ | .dcwSustain _ _ | .dcaSustain _ _
  | .pitchSustain _ _ | .dcwEnd _ _ | .dcaEnd _ _ | .pitchEnd _ _ | .cmdReserved9 | .cmdReserved10
  | .cmdReserved11 | .cmdReserved12 | .cmdReserved13 | .cmdReserved14 | .cmdReserved15 => true

end Sys2Proof
end

