-- ==== Sys2Proof/Decode.lean ====
section
/-! DEFINITION. The decoder of operation words and command records (30_encoding.md R100-R115), their byte forms
(20_memory.md R75), and the encoder. -/

namespace Sys2Proof

/-- The operation a 64-bit word is, chosen by OP = w[63:60] alone (R101), its operands cut out by R102-R109 and
R112. Ignored bits are not read (R114). -/
def decodeWord (w : OpWord) : Instr :=
  match (w.extractLsb' 60 4).toNat with
  | 0 => .nop
  | 1 => .noteOn (w.extractLsb' 0 7) (w.extractLsb' 16 16)
  | 2 => .noteOff (w.extractLsb' 0 7)
  | 3 => .allNotesOff
  | 4 => .setModwheel (w.extractLsb' 0 16)
  | 5 => .setAftertouch (w.extractLsb' 0 16)
  | 6 => .setPitchbend (w.extractLsb' 0 16)
  | 7 => .reserved7
  | 8 => .paramWrite (w.extractLsb' 32 10) (w.extractLsb' 0 32)
  | 9 => .snapPublish
  | 10 => .cmdPush (w.extractLsb' 0 48)
  | 11 => .setLfo (w.extractLsb' 0 16)
  | 12 => .reservedC
  | 13 => .reservedD
  | 14 => .reservedE
  | _ => .tick (w.extractLsb' 0 32)

/-- TYPE of a record (R110). -/
def Rec.type (r : Rec) : BitVec 4 := r.extractLsb' 0 4
/-- LINE of a record (R110). -/
def Rec.line (r : Rec) : BitVec 2 := r.extractLsb' 4 2
/-- INDEX of a record (R110). -/
def Rec.index (r : Rec) : BitVec 4 := r.extractLsb' 6 4
/-- RATE of a record (R110). -/
def Rec.rate (r : Rec) : Code := r.extractLsb' 16 16
/-- LEVEL of a record (R110). -/
def Rec.level (r : Rec) : Code := r.extractLsb' 32 16

/-- The command a 48-bit record is, chosen by TYPE alone (R111). The reserved bits [15:10] are not read (R114). -/
def decodeRecord (r : Rec) : Instr :=
  match (Rec.type r).toNat with
  | 0 => .dcwStage (Rec.line r) (Rec.index r) (Rec.rate r) (Rec.level r)
  | 1 => .dcaStage (Rec.line r) (Rec.index r) (Rec.rate r) (Rec.level r)
  | 2 => .pitchStage (Rec.line r) (Rec.index r) (Rec.rate r) (Rec.level r)
  | 3 => .dcwSustain (Rec.line r) (Rec.index r)
  | 4 => .dcaSustain (Rec.line r) (Rec.index r)
  | 5 => .pitchSustain (Rec.line r) (Rec.index r)
  | 6 => .dcwEnd (Rec.line r) (Rec.index r)
  | 7 => .dcaEnd (Rec.line r) (Rec.index r)
  | 8 => .pitchEnd (Rec.line r) (Rec.index r)
  | 9 => .cmdReserved9
  | 10 => .cmdReserved10
  | 11 => .cmdReserved11
  | 12 => .cmdReserved12
  | 13 => .cmdReserved13
  | 14 => .cmdReserved14
  | _ => .cmdReserved15

/-! ## Bytes -/

/-- Why bytes are no instruction. The only reason: there are fewer than the form's length (R117 gives every
operation word eight bytes). DESIGN CHOICE, log entry 9. -/
inductive DecodeError where
  | truncated
deriving DecidableEq, Repr

/-- The number that `n` bytes hold, byte 0 lowest (20_memory.md R75), with the bytes after them. -/
def takeLittleEndian : Nat → List Byte → Except DecodeError (Nat × List Byte)
  | 0, bytes => .ok (0, bytes)
  | _ + 1, [] => .error .truncated
  | n + 1, b :: bytes =>
    match takeLittleEndian n bytes with
    | .ok (hi, rest) => .ok (b.toNat + 256 * hi, rest)
    | .error e => .error e

/-- The `n` bytes of a number, byte 0 lowest (20_memory.md R75). -/
def littleEndian : Nat → Nat → List Byte
  | 0, _ => []
  | n + 1, x => BitVec.ofNat 8 x :: littleEndian n (x / 256)

/-- The operation word at the head of a stimulus file and the bytes after it (R117, 20_memory.md R75). -/
def decodeBytes (bytes : List Byte) : Except DecodeError (Instr × List Byte) :=
  match takeLittleEndian 8 bytes with
  | .ok (w, rest) => .ok (decodeWord (BitVec.ofNat 64 w), rest)
  | .error e => .error e

/-- The command record at the head of six bytes, the same byte order (20_memory.md R75, R77). -/
def decodeRecordBytes (bytes : List Byte) : Except DecodeError (Instr × List Byte) :=
  match takeLittleEndian 6 bytes with
  | .ok (r, rest) => .ok (decodeRecord (BitVec.ofNat 48 r), rest)
  | .error e => .error e

/-- The operation words of a whole stimulus file (20_memory.md R75, 30_encoding.md R117): eight bytes each, the
first argument bounds their number. -/
def stimulusWords : Nat → List Byte → Except DecodeError (List OpWord)
  | _, [] => .ok []
  | 0, _ => .ok []
  | n + 1, bytes =>
    match takeLittleEndian 8 bytes with
    | .error e => .error e
    | .ok (w, rest) =>
      match stimulusWords n rest with
      | .ok ws => .ok (BitVec.ofNat 64 w :: ws)
      | .error e => .error e

/-- Is a row of the opcode table whose bits are `nbits` wide a command record? The table gives a record at most 48
bits and an operation word 64 (30_encoding.md R120). -/
def isRecordWidth (nbits : Nat) : Bool := decide (nbits ≤ 48)

/-- The instruction the decoder reads from the bits `w` of an opcode-table row, laid out as bytes. -/
def decodeTableWord (nbits w : Nat) : Option Instr :=
  let bits := w % 2 ^ nbits
  if isRecordWidth nbits then
    match decodeRecordBytes (littleEndian 6 bits) with
    | .ok (i, _) => some i
    | .error _ => none
  else if nbits ≤ 64 then
    match decodeBytes (littleEndian 8 bits) with
    | .ok (i, _) => some i
    | .error _ => none
  else none

/-! ## The encoder -/

/-- OP in bits [63:60] over a 60-bit payload (R100). -/
def opWord (op : BitVec 4) (payload : BitVec 60) : OpWord := op ++ payload

/-- A record from its fields, the reserved bits [15:10] as 0 (R110, R114). -/
def recordWord (type : BitVec 4) (line : BitVec 2) (index : BitVec 4) (rate level : Code) : Rec :=
  level ++ (rate ++ (0#6 ++ (index ++ (line ++ type))))

/-- The bits of an instruction: 64 bits of an operation word, or 48 bits of a record. Bits a layout does not name are
0 (R114). -/
inductive Encoded where
  | op (w : OpWord)
  | cmd (r : Rec)
deriving DecidableEq, Repr

/-- The word of an instruction (R100-R112), written from the same tables as the decoder. -/
def encode : Instr → Encoded
  | .nop => .op (opWord 0x0 0)
  | .noteOn note vel => .op (opWord 0x1 (0#28 ++ (vel ++ (0#9 ++ note))))
  | .noteOff note => .op (opWord 0x2 (0#53 ++ note))
  | .allNotesOff => .op (opWord 0x3 0)
  | .setModwheel val => .op (opWord 0x4 (0#44 ++ val))
  | .setAftertouch val => .op (opWord 0x5 (0#44 ++ val))
  | .setPitchbend val => .op (opWord 0x6 (0#44 ++ val))
  | .reserved7 => .op (opWord 0x7 0)
  | .paramWrite addr data => .op (opWord 0x8 (0#18 ++ (addr ++ data)))
  | .snapPublish => .op (opWord 0x9 0)
  | .cmdPush record => .op (opWord 0xA (0#12 ++ record))
  | .setLfo val => .op (opWord 0xB (0#44 ++ val))
  | .reservedC => .op (opWord 0xC 0)
  | .reservedD => .op (opWord 0xD 0)
  | .reservedE => .op (opWord 0xE 0)
  | .tick count => .op (opWord 0xF (0#28 ++ count))
  | .dcwStage line index rate level => .cmd (recordWord 0 line index rate level)
  | .dcaStage line index rate level => .cmd (recordWord 1 line index rate level)
  | .pitchStage line index rate level => .cmd (recordWord 2 line index rate level)
  | .dcwSustain line index => .cmd (recordWord 3 line index 0 0)
  | .dcaSustain line index => .cmd (recordWord 4 line index 0 0)
  | .pitchSustain line index => .cmd (recordWord 5 line index 0 0)
  | .dcwEnd line index => .cmd (recordWord 6 line index 0 0)
  | .dcaEnd line index => .cmd (recordWord 7 line index 0 0)
  | .pitchEnd line index => .cmd (recordWord 8 line index 0 0)
  | .cmdReserved9 => .cmd (recordWord 9 0 0 0 0)
  | .cmdReserved10 => .cmd (recordWord 10 0 0 0 0)
  | .cmdReserved11 => .cmd (recordWord 11 0 0 0 0)
  | .cmdReserved12 => .cmd (recordWord 12 0 0 0 0)
  | .cmdReserved13 => .cmd (recordWord 13 0 0 0 0)
  | .cmdReserved14 => .cmd (recordWord 14 0 0 0 0)
  | .cmdReserved15 => .cmd (recordWord 15 0 0 0 0)

/-- Decode the bits of an instruction. -/
def decode : Encoded → Instr
  | .op w => decodeWord w
  | .cmd r => decodeRecord r

/-- The bytes of an instruction, lowest first (20_memory.md R75). -/
def encodeBytes (i : Instr) : List Byte :=
  match encode i with
  | .op w => littleEndian 8 w.toNat
  | .cmd r => littleEndian 6 r.toNat

end Sys2Proof
end

