-- ==== Sys2Proof/Config.lean ====
section
/-! DEFINITION. The implementation parameters of 00_scope.md R6, which every rule of the engine takes as an argument
(`Params`), NUM (R9) among them (`NumSys`), and the free values of R14. The reference values of R6's default column stand
in Machine/Reference.lean. -/

namespace Sys2Proof

/-- NUM, the number type of the signal path, with the operations the rules use on it (00_scope.md R9, R11). -/
class NumSys (N : Type) extends Add N, Sub N, Mul N, Div N, Neg N where
  /-- A decoded field, a constant of a rule or an integer as a number. -/
  ofRat : ℚ → N
  /-- The larger of two numbers. -/
  max : N → N → N
  /-- The smaller of two numbers. -/
  min : N → N → N
  /-- `2 ^ x`. -/
  twoPow : N → N
  /-- `frac(x) = x - floor(x)`. -/
  frac : N → N
  /-- `floor(x)`, one of the "named points" where a value crosses from real to integer. -/
  floor : N → Int
  /-- Is `x ≤ y`? -/
  le : N → N → Bool
  /-- The third number where the first is at most the second, else the fourth. -/
  select : N → N → N → N → N
  /-- `f(floor(x))`. -/
  atFloor : N → (Int → N) → N

namespace Config

/-! ## The parameters -/

/-- The parameters that the waveforms read (00_scope.md R6). -/
structure Tables (N : Type) where
  /-- TABLE_SIZE, entries per wavetable, a multiple of 4. -/
  tableSize : Nat
  /-- SINE_TABLE[0..TABLE_SIZE-1]. -/
  sineTable : Nat → N
  /-- RESO_AMP, the resonance perturbation's amplitude. -/
  resoAmp : N
  /-- RESO_MULT[1..3], the resonance perturbation's frequency factors. -/
  resoMult : Nat → N

/-- The implementation parameters (00_scope.md R6) and the draws (R14), over a number type `N` (NUM) and a type `Post` of
V_POST (10_state.md R51). "A run with different parameters is a different instance" (70_reset_and_hazards.md R432). -/
structure Params (N Post : Type) extends Tables N where
  /-- NUM's operations (R9). -/
  num : NumSys N
  /-- FS, the sample rate in Hz, a positive integer. -/
  fs : Nat
  /-- POOL, the voice pool capacity, 1 to 255. -/
  pool : Nat
  /-- BLOCK_LEN, samples per processing block, at least 1. -/
  blockLen : Nat
  /-- ENV_DECIM, the envelope control-rate divider, a power of two. -/
  envDecim : Nat
  /-- CMDQ_CAP, the command FIFO capacity in records, at least 1. -/
  cmdqCap : Nat
  /-- HELD_MAX, the arpeggiator's held-note capacity, at least 1. -/
  heldMax : Nat
  /-- F_MIN, the lower oscillator frequency clamp in Hz. -/
  fMin : N
  /-- F_MAX, the upper oscillator frequency clamp in Hz. -/
  fMax : N
  /-- RATE_MS[0..99], the ramp duration in ms of each rate index. -/
  rateMs : Nat → N
  /-- RATE_INV, the inverse of the rate mapping. -/
  rateInv : N → Nat
  /-- FAST_FACTOR, the divisor of the faster rate-table variant. -/
  fastFactor : N
  /-- WARP_w, the phase-distortion function F_w of each waveform (41_oscillator.md R145). -/
  warp : Tables N → Wave → N → N
  /-- WARP_w's limit from the left at an edge, for x = 0 the limit at p → 1 (41_oscillator.md R153). -/
  warpLeft : Tables N → Wave → N → N
  /-- POST, the filter and saturation plug-in: "a total function of its state, its input and the active bank" (43_voice.md
  R233). -/
  post : Bank → Post → N → N × Post
  /-- POST_INIT, the initial V_POST. -/
  postInit : Post
  /-- SWING_MAX, the upper clamp of the swing amount. -/
  swingMax : N
  /-- JITTER_MAX, the scale of the jitter field. -/
  jitterMax : N
  /-- ARP_FIXED_VEL, the velocity of arpeggiator notes (46_arpeggiator.md R360). -/
  arpFixedVel : N
  /-- The n-th draw_idx, before it is brought into [0, L) (R14, 46_arpeggiator.md R352). -/
  drawIdx : Nat → Nat
  /-- The n-th draw_jit, before it is brought into [-1, 1] (R14, 46_arpeggiator.md R356). -/
  drawJit : Nat → N

/-! ## The free values of R14 -/

/-- FREE VALUE. The n-th draw of the Random pattern's index, before it is reduced into [0, L)
(00_scope.md R14, 46_arpeggiator.md R352). It has no body: nothing constrains it. Log entry 5. -/
opaque drawIdx : Nat → Nat

/-- A sequence of jitter variates: any reals of [-1, 1] (00_scope.md R14, 46_arpeggiator.md R356), together with the
comparisons with 0 of their linear combinations, which decide when a step ends. Every sequence of such reals is the
`value` of one. -/
structure JitterSource where
  /-- The n-th variate. -/
  value : Nat → ℝ
  /-- R14's bound. -/
  bounded : ∀ n, -1 ≤ value n ∧ value n ≤ 1
  /-- Is `c` plus the sum of the terms' coefficients times their variates at least 0? -/
  nonneg : ℚ → List (ℚ × Nat) → Bool
  /-- `nonneg` answers as the reals do. -/
  nonneg_iff : ∀ (c : ℚ) (terms : List (ℚ × Nat)),
    nonneg c terms = true ↔ (0 : ℝ) ≤ (c : ℝ) + (terms.map fun t => (t.1 : ℝ) * value t.2).sum

/-- The jitter source whose variates are all 0. It shows that there is one. -/
def stillSource : JitterSource where
  value := fun _ => 0
  bounded := fun _ => ⟨by norm_num, by norm_num⟩
  nonneg := fun c _ => decide (0 ≤ c)
  nonneg_iff := fun c terms => by simp

/-- FREE VALUE. Some jitter source, for a model that knows there is one. It has no body: nothing constrains it. -/
opaque someSource [Inhabited JitterSource] : JitterSource

/-- FREE VALUE. The jitter variates of a run (00_scope.md R14, 46_arpeggiator.md R356): nothing but the bound constrains
them. Log entry 5. -/
def jitter : JitterSource := @someSource ⟨stillSource⟩

end Config

end Sys2Proof
end

