-- ==== Sys2Proof/Machine/Operands.lean ====
section
/-! DEFINITION. The operand formats of 00_scope.md R12, whose decoded values are rationals, and the numeric helpers of R11 on
rationals and on NUM. -/

namespace Sys2Proof.Machine

/-- `clamp(x, lo, hi)` (R11). -/
def clamp (x lo hi : ℚ) : ℚ := min (max x lo) hi

/-- `clamp01(x)` (R11). -/
def clamp01 (x : ℚ) : ℚ := clamp x 0 1

/-- `rhu(x)`, rounding half up (R11). -/
def rhu (x : ℚ) : Int := ⌊x + 1 / 2⌋

/-- `UQ1.15` (R12): codes above 0x8000 decode to 1. -/
def uq15 (c : Code) : ℚ := (min c.toNat 0x8000 : Nat) / 32768

/-- `SQ7.8` (R12). -/
def sq78 (c : Code) : ℚ := (c.toInt : ℚ) / 256

/-- `UQ8.8` (R12). -/
def uq88 (c : Code) : ℚ := (c.toNat : ℚ) / 256

/-- `SQ1.14` (R12): codes outside [-1, 1] are clamped. -/
def sq114 (c : Code) : ℚ := clamp ((c.toInt : ℚ) / 16384) (-1) 1

/-- `UQ12.4` (R12). -/
def uq124 (c : Code) : ℚ := (c.toNat : ℚ) / 16

/-- The smaller of a field's code and the largest legal code (45_protocol.md R306). -/
def capTo {n : Nat} (c k : BitVec n) : BitVec n := if c.toNat ≤ k.toNat then c else k

/-- A UQ1.15 field as it is stored: codes above 0x8000 store 0x8000 (45_protocol.md R306). -/
def capUq15 (c : Code) : Code := capTo c 0x8000#16

/-! ## The helpers of R11 on NUM -/

variable {N Post : Type} (P : Config.Params N Post)

/-- A rational as a number: the point where a decoded field, an integer or a phase enters the signal path (R9). -/
def numOf (q : ℚ) : N := P.num.ofRat q

/-- `clamp(x, lo, hi)` (R11). -/
def numClamp (x lo hi : N) : N := P.num.min (P.num.max x lo) hi

/-- `clamp01(x)` (R11). -/
def numClamp01 (x : N) : N := numClamp P x (numOf P 0) (numOf P 1)

/-- `rhu(x)` (R11). -/
def numRhu (x : N) : Int :=
  letI := P.num
  P.num.floor (x + numOf P (1 / 2))

end Sys2Proof.Machine
end

