-- ==== Sys2Proof/Machine/Map.lean ====
section
/-! DEFINITION. The parameter map: the mapped registers and their addresses (10_state.md R32-R46), their reset words
(R58) and LEGAL, the word a write stores (45_protocol.md R306). `pool` is POOL, on which the reset word of SYS_CFG and its
legal words depend (70_reset_and_hazards.md R432). -/

namespace Sys2Proof.Machine

/-- A mapped register of a bank (10_state.md R32-R45). -/
inductive Reg where
  | envStage (t : EnvType) (l : Line) (s : Fin 8)
  | envSustain (t : EnvType) (l : Line)
  | envEnd (t : EnvType) (l : Line)
  | envInit (t : EnvType) (l : Line)
  | oscCfg (l : Line)
  | oscLevel (l : Line)
  | mixCfg
  | detune (l : Line)
  | velSens
  | keyFollow
  | modMatrix
  | vibrato
  | pitchDepth
  | sysCfg
  | arpCtl
  | arpTempo
  | arpGate
  | arpSwing
  | arpJitter
  | efx (i : Fin 128)
deriving DecidableEq, Repr

/-- `tcode(t)` (R32). -/
def tcode : EnvType → Nat
  | .dcw => 0
  | .dca => 1
  | .pitch => 2

/-- `l - 1` for line l. -/
def lineIndex : Line → Nat
  | .one => 0
  | .two => 1

/-- `EB(t,l)`, the base of an envelope's register block (R32). -/
def envBase (t : EnvType) (l : Line) : Nat := 0x20 * (2 * tcode t + lineIndex l)

/-- The address of a mapped register (R32-R45). -/
def regAddr : Reg → Nat
  | .envStage t l s => envBase t l + s.val
  | .envSustain t l => envBase t l + 0x08
  | .envEnd t l => envBase t l + 0x09
  | .envInit t l => envBase t l + 0x0A
  | .oscCfg l => 0x100 + lineIndex l
  | .oscLevel l => 0x102 + lineIndex l
  | .mixCfg => 0x104
  | .detune l => 0x105 + lineIndex l
  | .velSens => 0x107
  | .keyFollow => 0x108
  | .modMatrix => 0x109
  | .vibrato => 0x10A
  | .pitchDepth => 0x10B
  | .sysCfg => 0x110
  | .arpCtl => 0x120
  | .arpTempo => 0x121
  | .arpGate => 0x122
  | .arpSwing => 0x123
  | .arpJitter => 0x124
  | .efx i => 0x180 + i.val

/-- The register at an offset of the block of envelope (t, l); offsets 0x0B to 0x1F are unmapped (R32, R46). -/
def envRegAt (t : EnvType) (l : Line) (off : Nat) : Option Reg :=
  if off < 8 then some (.envStage t l (Fin.ofNat 8 off))
  else match off with
    | 8 => some (.envSustain t l)
    | 9 => some (.envEnd t l)
    | 10 => some (.envInit t l)
    | _ => none

/-- The register at an oscillator, voice, system or arpeggiator address (R37-R44). -/
def voiceRegAt (a : Nat) : Option Reg :=
  if a = 0x100 then some (.oscCfg .one)
  else if a = 0x101 then some (.oscCfg .two)
  else if a = 0x102 then some (.oscLevel .one)
  else if a = 0x103 then some (.oscLevel .two)
  else if a = 0x104 then some .mixCfg
  else if a = 0x105 then some (.detune .one)
  else if a = 0x106 then some (.detune .two)
  else if a = 0x107 then some .velSens
  else if a = 0x108 then some .keyFollow
  else if a = 0x109 then some .modMatrix
  else if a = 0x10A then some .vibrato
  else if a = 0x10B then some .pitchDepth
  else if a = 0x110 then some .sysCfg
  else if a = 0x120 then some .arpCtl
  else if a = 0x121 then some .arpTempo
  else if a = 0x122 then some .arpGate
  else if a = 0x123 then some .arpSwing
  else if a = 0x124 then some .arpJitter
  else none

/-- The register at an address, or none where the address is unmapped (R46). -/
def regAt (a : Nat) : Option Reg :=
  if a < 0x020 then envRegAt .dcw .one a
  else if a < 0x040 then envRegAt .dcw .two (a - 0x020)
  else if a < 0x060 then envRegAt .dca .one (a - 0x040)
  else if a < 0x080 then envRegAt .dca .two (a - 0x060)
  else if a < 0x0A0 then envRegAt .pitch .one (a - 0x080)
  else if a < 0x0C0 then envRegAt .pitch .two (a - 0x0A0)
  else if 0x180 ≤ a ∧ a < 0x200 then some (.efx (Fin.ofNat 128 (a - 0x180)))
  else voiceRegAt a

/-- The word a register holds at reset (R58). -/
def resetWord (pool : Nat) : Reg → ParamWord
  | .envStage .dca .one s => if s = 0 then 0x80008000#32 else if s = 1 then 0x00008000#32 else 0
  | .envStage _ _ _ => 0
  | .envSustain .dca .one => 0
  | .envSustain _ _ => 0x0000000F#32
  | .envEnd .dca .one => 0x00000001#32
  | .envEnd _ _ => 0
  | .envInit _ _ => 0
  | .oscCfg _ => 0
  | .oscLevel _ => 0x00008000#32
  | .mixCfg => 0
  | .detune _ => 0
  | .velSens => 0
  | .keyFollow => 0
  | .modMatrix => 0
  | .vibrato => 0
  | .pitchDepth => 0x00000C00#32
  | .sysCfg => BitVec.ofNat 32 pool
  | .arpCtl => 0x00000080#32
  | .arpTempo => 0x00000780#32
  | .arpGate => 0x00004000#32
  | .arpSwing => 0
  | .arpJitter => 0
  | .efx _ => 0

/-! ## Banks -/

/-- The word an address holds where the bank does not list it. -/
def resetWordAt (pool a : Nat) : ParamWord :=
  match regAt a with
  | some r => resetWord pool r
  | none => 0

/-- The word of a bank at a register (R29, R31). -/
def bankRead (pool : Nat) (b : Bank) (r : Reg) : ParamWord :=
  match b.lookup (regAddr r) with
  | some w => w
  | none => resetWord pool r

/-- The bank with the word `w` at address `a`, in the canonical form: addresses rising, no entry equal to its reset
word. -/
def bankInsert (pool : Nat) (b : Bank) (a : Nat) (w : ParamWord) : Bank :=
  match b with
  | [] => if w = resetWordAt pool a then [] else [(a, w)]
  | (c, x) :: rest =>
    if a < c then (if w = resetWordAt pool a then (c, x) :: rest else (a, w) :: (c, x) :: rest)
    else if a = c then (if w = resetWordAt pool a then rest else (a, w) :: rest)
    else (c, x) :: bankInsert pool rest a w

/-- The bank with the word `w` stored in register `r`. -/
def bankWrite (pool : Nat) (b : Bank) (r : Reg) (w : ParamWord) : Bank := bankInsert pool b (regAddr r) w

/-- Does every address listed lie above `lo`, rising, mapped, with a word that is not its reset word? -/
def cellsOk (pool : Nat) : Nat → Bank → Bool
  | _, [] => true
  | lo, (a, w) :: rest =>
    decide (lo ≤ a) && (regAt a).isSome && decide (w ≠ resetWordAt pool a) && cellsOk pool (a + 1) rest

/-- The canonical form of a bank. -/
def Bank.wf (pool : Nat) (b : Bank) : Bool := cellsOk pool 0 b

/-! ## LEGAL -/

/-- Bits [15:0] of a register word. -/
def lo16 (w : ParamWord) : Code := w.extractLsb' 0 16

/-- Bits [31:16] of a register word. -/
def hi16 (w : ParamWord) : Code := w.extractLsb' 16 16

/-- `clamp` on the codes of an unsigned field. -/
def clampCode {n : Nat} (c lo hi : BitVec n) : BitVec n :=
  if c.toNat < lo.toNat then lo else if hi.toNat < c.toNat then hi else c

/-- SUS as it is stored: 0 to 7 or 0xF, else the old field (R34, R306). -/
def legalSustain (old d : BitVec 4) : BitVec 4 := if d.toNat ≤ 7 ∨ d = 15#4 then d else old

/-- END as it is stored: 0 to 7, else the old field (R35, R306). -/
def legalEnd (old d : BitVec 4) : BitVec 4 := if d.toNat ≤ 7 then d else old

/-- A UQ1.15 field in bits [15:0], the rest reserved. -/
def legalUq15Word (d : ParamWord) : ParamWord := 0#16 ++ capUq15 (lo16 d)

/-- Two UQ1.15 fields. -/
def legalUq15Pair (d : ParamWord) : ParamWord := capUq15 (hi16 d) ++ capUq15 (lo16 d)

/-- OSCn_CFG as stored (R37, R306). -/
def legalOscCfg (d : ParamWord) : ParamWord :=
  0#25 ++ (d.extractLsb' 6 1 ++ (capTo (d.extractLsb' 3 3) 6#3 ++ capTo (d.extractLsb' 0 3) 6#3))

/-- DETUNEn as stored (R40, R306). -/
def legalDetune (d : ParamWord) : ParamWord :=
  hi16 d ++ (0#2 ++ (capTo (d.extractLsb' 8 6) 60#6 ++ (capTo (d.extractLsb' 4 4) 11#4 ++ d.extractLsb' 0 4)))

/-- SYS_CFG as stored (R43, R306). -/
def legalSysCfg (pool : Nat) (d : ParamWord) : ParamWord :=
  0#20 ++ (d.extractLsb' 8 4 ++ clampCode (d.extractLsb' 0 8) 1#8 (BitVec.ofNat 8 pool))

/-- ARP_CTL as stored (R44, R306). -/
def legalArpCtl (d : ParamWord) : ParamWord :=
  0#23 ++ (d.extractLsb' 4 5 ++ (capTo (d.extractLsb' 1 3) 4#3 ++ d.extractLsb' 0 1))

/-- LEGAL: the word stored when `d` is written over `old` (R306). -/
def legal (pool : Nat) (r : Reg) (old d : ParamWord) : ParamWord :=
  match r with
  | .envStage _ _ _ => legalUq15Pair d
  | .envSustain _ _ => 0#28 ++ legalSustain (old.extractLsb' 0 4) (d.extractLsb' 0 4)
  | .envEnd _ _ => 0#28 ++ legalEnd (old.extractLsb' 0 4) (d.extractLsb' 0 4)
  | .envInit _ _ => legalUq15Word d
  | .oscCfg _ => legalOscCfg d
  | .oscLevel _ => legalUq15Word d
  | .mixCfg => 0#29 ++ d.extractLsb' 0 3
  | .detune _ => legalDetune d
  | .velSens => legalUq15Pair d
  | .keyFollow => legalUq15Word d
  | .modMatrix => hi16 d ++ capUq15 (lo16 d)
  | .vibrato => 0#16 ++ lo16 d
  | .pitchDepth => 0#16 ++ lo16 d
  | .sysCfg => legalSysCfg pool d
  | .arpCtl => legalArpCtl d
  | .arpTempo => 0#16 ++ clampCode (lo16 d) 320#16 4800#16
  | .arpGate => legalUq15Word d
  | .arpSwing => legalUq15Word d
  | .arpJitter => legalUq15Word d
  | .efx _ => d

/-- Is `w` a word that LEGAL can store in `r`, writing it over the reset word? (R31 "Every register word in a bank is
legal".) -/
def legalWord (pool : Nat) (r : Reg) (w : ParamWord) : Bool := decide (legal pool r (resetWord pool r) w = w)

/-- Is every word a bank lists legal? -/
def Bank.legal (pool : Nat) (b : Bank) : Bool :=
  b.all fun c => match regAt c.1 with
    | some r => legalWord pool r c.2
    | none => false

end Sys2Proof.Machine
end

