-- ==== Sys2Proof/Machine/Fields.lean ====
section
/-! DEFINITION. The fields `P.f` of the active bank, decoded (10_state.md R31-R44), with the parameters as an argument: POOL,
SWING_MAX and JITTER_MAX, and FS for BASE. Codes that LEGAL never stores decode like the nearest legal code; no bank that a
run reaches holds one (log entry 8). -/

namespace Sys2Proof.Machine

variable {N Post : Type}

/-- Bit `i` of a register. -/
def bankBit (P : Config.Params N Post) (b : Bank) (r : Reg) (i : Nat) : Bool := (bankRead P.pool b r).getLsbD i

/-- An unsigned field of `n` bits from bit `lo` of a register. -/
def bankField (P : Config.Params N Post) (b : Bank) (r : Reg) (lo n : Nat) : Nat := ((bankRead P.pool b r).extractLsb' lo n).toNat

/-- `P.env[t][l].stage[s].RATE` (R33). -/
def stageRate (P : Config.Params N Post) (b : Bank) (t : EnvType) (l : Line) (s : Fin 8) : Code := lo16 (bankRead P.pool b (.envStage t l s))

/-- `P.env[t][l].stage[s].LEVEL` (R33). -/
def stageLevel (P : Config.Params N Post) (b : Bank) (t : EnvType) (l : Line) (s : Fin 8) : Code := hi16 (bankRead P.pool b (.envStage t l s))

/-- `P.env[t][l].SUSTAIN`: the stage held at, or none (R34). -/
def sustainPoint (P : Config.Params N Post) (b : Bank) (t : EnvType) (l : Line) : Option (Fin 8) :=
  let c := bankField P b (.envSustain t l) 0 4
  if c < 8 then some (Fin.ofNat 8 c) else none

/-- `P.env[t][l].END` (R35). -/
def endPoint (P : Config.Params N Post) (b : Bank) (t : EnvType) (l : Line) : Fin 8 := Fin.ofNat 8 (bankField P b (.envEnd t l) 0 4)

/-- `P.env[t][l].INIT`, decoded (R36). -/
def envInitial (P : Config.Params N Post) (b : Bank) (t : EnvType) (l : Line) : ℚ := uq15 (lo16 (bankRead P.pool b (.envInit t l)))

/-- The waveform of a code (R37; 41_oscillator.md R144). -/
def waveOfCode : Nat → Wave
  | 0 => .saw
  | 1 => .square
  | 2 => .pulse
  | 3 => .dsine
  | 4 => .reso1
  | 5 => .reso2
  | _ => .reso3

/-- `P.osc[l].waveA` (R37). -/
def waveA (P : Config.Params N Post) (b : Bank) (l : Line) : Wave := waveOfCode (bankField P b (.oscCfg l) 0 3)

/-- `P.osc[l].waveB` (R37). -/
def waveB (P : Config.Params N Post) (b : Bank) (l : Line) : Wave := waveOfCode (bankField P b (.oscCfg l) 3 3)

/-- `P.osc[l].dual` (R37). -/
def dualWave (P : Config.Params N Post) (b : Bank) (l : Line) : Bool := bankBit P b (.oscCfg l) 6

/-- `P.osc[l].level` (R38). -/
def oscLevel (P : Config.Params N Post) (b : Bank) (l : Line) : ℚ := uq15 (lo16 (bankRead P.pool b (.oscLevel l)))

/-- `P.sync` (R39). -/
def syncOn (P : Config.Params N Post) (b : Bank) : Bool := bankBit P b .mixCfg 0

/-- `P.ring` (R39). -/
def ringOn (P : Config.Params N Post) (b : Bank) : Bool := bankBit P b .mixCfg 1

/-- `P.line2On` (R39). -/
def line2On (P : Config.Params N Post) (b : Bank) : Bool := bankBit P b .mixCfg 2

/-- The detune a DETUNE word stands for, in semitones (R40). -/
def detuneOf (w : ParamWord) : ℚ :=
  if w.getLsbD 0 then
    let size : ℚ := 12 * ((w.extractLsb' 2 2).toNat : ℚ) + ((w.extractLsb' 4 4).toNat : ℚ)
      + ((w.extractLsb' 8 6).toNat : ℚ) / 60
    if w.getLsbD 1 then -size else size
  else sq78 (hi16 w)

/-- `P.osc[l].detune` (R40; 43_voice.md R223). -/
def oscDetune (P : Config.Params N Post) (b : Bank) (l : Line) : ℚ := detuneOf (bankRead P.pool b (.detune l))

/-- `P.vsDCA` (R41). -/
def vsDca (P : Config.Params N Post) (b : Bank) : ℚ := uq15 (lo16 (bankRead P.pool b .velSens))

/-- `P.vsDCW` (R41). -/
def vsDcw (P : Config.Params N Post) (b : Bank) : ℚ := uq15 (hi16 (bankRead P.pool b .velSens))

/-- `P.kfDCW` (R41). -/
def kfDcw (P : Config.Params N Post) (b : Bank) : ℚ := uq15 (lo16 (bankRead P.pool b .keyFollow))

/-- `P.atDCW` (R42). -/
def atDcw (P : Config.Params N Post) (b : Bank) : ℚ := uq15 (lo16 (bankRead P.pool b .modMatrix))

/-- `P.wheelVib` (R42). -/
def wheelVib (P : Config.Params N Post) (b : Bank) : ℚ := uq88 (hi16 (bankRead P.pool b .modMatrix))

/-- `P.vibDepth` (R42). -/
def vibDepth (P : Config.Params N Post) (b : Bank) : ℚ := uq88 (lo16 (bankRead P.pool b .vibrato))

/-- `P.penvDepth` (R42). -/
def penvDepth (P : Config.Params N Post) (b : Bank) : ℚ := sq78 (lo16 (bankRead P.pool b .pitchDepth))

/-- `P.vlim`, the voice limit (R43). -/
def voiceLimit (P : Config.Params N Post) (b : Bank) : Nat := bankField P b .sysCfg 0 8

/-- OVS, the code of the oversampling field (R43). -/
def oversampling (P : Config.Params N Post) (b : Bank) : Nat := bankField P b .sysCfg 8 2

/-- The oversampling factor `2 ^ OVS` that the field decodes to (R43): stored, "no effect on any rule" (00_scope.md R8;
47_sample_clock.md R398). -/
def oversamplingFactor (P : Config.Params N Post) (b : Bank) : Nat := 2 ^ oversampling P b

/-- `P.opmode`: the faster rate-table variant (R43). -/
def fastMode (P : Config.Params N Post) (b : Bank) : Bool := bankBit P b .sysCfg 10

/-- `P.steal`: release-priority round-robin stealing (R43). -/
def roundRobinSteal (P : Config.Params N Post) (b : Bank) : Bool := bankBit P b .sysCfg 11

/-- `P.arpOn` (R44). -/
def arpOn (P : Config.Params N Post) (b : Bank) : Bool := bankBit P b .arpCtl 0

/-- The pattern of a code (R44; 46_arpeggiator.md R349). -/
def patternOfCode : Nat → Pattern
  | 0 => .up
  | 1 => .down
  | 2 => .upDown
  | 3 => .random
  | _ => .asPlayed

/-- `P.pattern` (R44). -/
def arpPattern (P : Config.Params N Post) (b : Bank) : Pattern := patternOfCode (bankField P b .arpCtl 1 3)

/-- `P.octRange` (R44). -/
def octRange (P : Config.Params N Post) (b : Bank) : Nat := bankField P b .arpCtl 4 2 + 1

/-- `P.div` (R44). -/
def arpDivision (P : Config.Params N Post) (b : Bank) : Nat := bankField P b .arpCtl 6 3

/-- `P.bpm` (R44). -/
def arpBpm (P : Config.Params N Post) (b : Bank) : ℚ := uq124 (lo16 (bankRead P.pool b .arpTempo))

/-- `P.gate` (R44). -/
def arpGateFraction (P : Config.Params N Post) (b : Bank) : ℚ := uq15 (lo16 (bankRead P.pool b .arpGate))

/-- `P.swing` (R44). -/
def arpSwing (P : Config.Params N Post) (b : Bank) : N :=
  P.num.min (numOf P (uq15 (lo16 (bankRead P.pool b .arpSwing)))) P.swingMax

/-- `P.jitter` (R44). -/
def arpJitter (P : Config.Params N Post) (b : Bank) : N :=
  letI := P.num
  numOf P (uq15 (lo16 (bankRead P.pool b .arpJitter))) * P.jitterMax

/-! ## The step length (46_arpeggiator.md R353, R354) -/

/-- `beats(DIV)` (46_arpeggiator.md R354). -/
def beats (div : Nat) : ℚ :=
  match div with
  | 0 => 1
  | 1 => 1 / 2
  | 2 => 1 / 4
  | 3 => 1 / 8
  | 4 => 2 / 3
  | 5 => 1 / 3
  | 6 => 1 / 6
  | _ => 1 / 12

/-- `BASE()`, the unswung step length in samples (46_arpeggiator.md R353). -/
def baseLength (P : Config.Params N Post) (b : Bank) : N :=
  numOf P ((P.fs : ℚ) * 60 / arpBpm P b * beats (arpDivision P b))

end Sys2Proof.Machine
end

