-- ==== Sys2Proof/Machine/Adapter.lean ====
section
/-! DEFINITION. The host-side ADSR-to-8-stage adapter (42_envelope.md R194-R196) and the reference RATE_INV. No engine rule
calls it. -/

namespace Sys2Proof.Machine

variable {N Post : Type}

/-- `x ^ n`. -/
def numPow (num : NumSys N) (x : N) : Nat → N
  | 0 => num.ofRat 1
  | n + 1 =>
    letI := num
    x * numPow num x n

/-- Is `i ≤ 99 - 6 * log2(ms / 0.5) + 1/2`, for ms above 0? Both sides as powers: `(2 * ms) ^ 12 ≤ 2 ^ (199 - 2 * i)`. -/
def rateReaches (num : NumSys N) (ms : N) (i : Nat) : Bool :=
  letI := num
  num.le (numPow num (num.ofRat 2 * ms) 12) (num.ofRat (2 ^ (199 - 2 * i) : Nat))

/-- The largest index up to the last argument that `rateReaches`, else 0. -/
def rateInvFrom (num : NumSys N) (ms : N) : Nat → Nat
  | 0 => 0
  | i + 1 => if rateReaches num ms (i + 1) then i + 1 else rateInvFrom num ms i

/-- The reference `RATE_INV(ms)`, the inverse rate mapping (R194): the parameter RATE_INV's default (00_scope.md R6). -/
def referenceRateInv (num : NumSys N) (ms : N) : Nat :=
  if num.le ms (num.ofRat 0) then 99 else rateInvFrom num ms 99

/-- `rc(i) = rhu(i * 32768 / 99)`, the rate code of an index (R195; 30_encoding.md R119). -/
def rateCode (i : Nat) : Code := BitVec.ofInt 16 (rhu ((i : ℚ) * 32768 / 99))

/-- `lc(x) = rhu(x * 32768)`, the level code of a fraction (R195). -/
def levelCode (P : Config.Params N Post) (x : N) : Code :=
  letI := P.num
  BitVec.ofInt 16 (numRhu P (x * numOf P 32768))

/-- What the adapter returns: the contents of one envelope register block but ENV_INIT (R195). -/
structure AdsrBlock where
  stages : List ParamWord
  sustain : Nat
  endStage : Nat
deriving DecidableEq, Repr

/-- `ADSR(A, D, S, R)` (R195): times in milliseconds, S clamped into [0, 1]. -/
def adsr (P : Config.Params N Post) (attack decay sustain release : N) : AdsrBlock :=
  let s := levelCode P (numClamp01 P sustain)
  { stages :=
      [ 0x8000#16 ++ rateCode (P.rateInv attack)
      , s ++ rateCode (P.rateInv decay)
      , s ++ 0x8000#16
      , 0#16 ++ rateCode (P.rateInv release)
      , 0x00008000#32, 0x00008000#32, 0x00008000#32, 0x00008000#32 ]
    sustain := 2
    endStage := 3 }

end Sys2Proof.Machine
end

