-- ==== Sys2Proof/Machine/Exp2.lean ====
section
/-! DEFINITION. Exact comparison and floor of the reals `coef * 2 ^ exp` (00_scope.md R9, R11), which is all that
41_oscillator.md R142, 42_envelope.md R183 and R194 and 43_voice.md R226 ask of them. An enclosure of `2 ^ r` decides
almost every case; the test by whole powers, exact for every rational, decides the rest. Log entry 3. -/

namespace Sys2Proof

/-- A real number of the form `coef * 2 ^ exp`, kept symbolically: the values of 43_voice.md R222 and R226
and of 42_envelope.md R182. -/
structure Exp2 where
  coef : ℚ
  exp : ℚ
deriving DecidableEq, Repr

end Sys2Proof

namespace Sys2Proof.Machine

/-- The enclosures are whole multiples of `1 / 2 ^ rootScale`. -/
def rootScale : Nat := 100

/-- How many binary digits of the exponent an enclosure uses. -/
def rootCount : Nat := 80

/-- Rows 1 to 16 of `twoRoots`. -/
def twoRootsA : List Nat :=
  [0x16A09E667F3BCC908B2FB1366E, 0x1306FE0A31B7152DE8D5A46305,
   0x1172B83C7D517ADCDF7C8C50EA, 0x10B5586CF9890F6298B92B7183,
   0x1059B0D31585743AE7C548EB68, 0x102C9A3E778060EE6F7CACA4F7,
   0x10163DA9FB33356D84A66AE336, 0x100B1AFA5ABCBED6129AB13EC0,
   0x10058C86DA1C09EA1FF19D294C, 0x1002C605E2E8CEC506D21BFC89,
   0x100162F3904051FA128BCA9C55, 0x1000B175EFFDC76BA38E31671C,
   0x100058BA01FB9F96D6CACD4B17, 0x10002C5CC37DA9491D0985C348,
   0x1000162E525EE054754457D598, 0x10000B17255775C040618BF4A4]

/-- Rows 17 to 32 of `twoRoots`. -/
def twoRootsB : List Nat :=
  [0x1000058B91B5BC9AE2EED81E9B, 0x100002C5C89D5EC6CA4D7C8ACB,
   0x10000162E43F4F831060E02D83, 0x100000B1721BCFC99D9F890EA0,
   0x10000058B90CF1E6D97F9CA14D, 0x1000002C5C863B73F016468F6B,
   0x100000162E430E5A18F6119E3B, 0x1000000B1721835514B86E6D96,
   0x100000058B90C0B48C6BE5DF83, 0x10000002C5C8601CC6B9E94213,
   0x1000000162E42FFF037DF38AA2, 0x10000000B17217FBA9C739AA57,
   0x1000000058B90BFCDEE5ACD3C1, 0x100000002C5C85FE31F35A6A30,
   0x10000000162E42FF0999CE3541, 0x100000000B17217F80F4EF5AAD]

/-- Rows 33 to 48 of `twoRoots`. -/
def twoRootsC : List Nat :=
  [0x10000000058B90BFBF8479BD5A, 0x1000000002C5C85FDF84BD62AD,
   0x100000000162E42FEFB2FED256, 0x1000000000B17217F7D5A7716B,
   0x100000000058B90BFBE9DDBAC5, 0x10000000002C5C85FDF4B15DE6,
   0x1000000000162E42FEFA494F14, 0x10000000000B17217F7D20CF92,
   0x1000000000058B90BFBE8F71CB, 0x100000000002C5C85FDF477B66,
   0x10000000000162E42FEFA3AE53, 0x100000000000B17217F7D1D351,
   0x10000000000058B90BFBE8E8B2, 0x1000000000002C5C85FDF4741B,
   0x100000000000162E42FEFA39FE, 0x1000000000000B17217F7D1CFB]

/-- Rows 49 to 64 of `twoRoots`. -/
def twoRootsD : List Nat :=
  [0x100000000000058B90BFBE8E7C, 0x10000000000002C5C85FDF473D,
   0x1000000000000162E42FEFA39E, 0x10000000000000B17217F7D1CE,
   0x1000000000000058B90BFBE8E6, 0x100000000000002C5C85FDF472,
   0x10000000000000162E42FEFA38, 0x100000000000000B17217F7D1B,
   0x10000000000000058B90BFBE8D, 0x1000000000000002C5C85FDF46,
   0x100000000000000162E42FEFA2, 0x1000000000000000B17217F7D0,
   0x100000000000000058B90BFBE7, 0x10000000000000002C5C85FDF3,
   0x1000000000000000162E42FEF9, 0x10000000000000000B17217F7C]

/-- Rows 65 to 80 of `twoRoots`. -/
def twoRootsE : List Nat :=
  [0x1000000000000000058B90BFBD, 0x100000000000000002C5C85FDE,
   0x10000000000000000162E42FEE, 0x100000000000000000B17217F6,
   0x10000000000000000058B90BFA, 0x1000000000000000002C5C85FC,
   0x100000000000000000162E42FD, 0x1000000000000000000B17217E,
   0x100000000000000000058B90BE, 0x10000000000000000002C5C85E,
   0x1000000000000000000162E42E, 0x10000000000000000000B17216,
   0x1000000000000000000058B90A, 0x100000000000000000002C5C84,
   0x10000000000000000000162E41, 0x100000000000000000000B1720]

/-- Row i (from 1) is a lower bound of `2 ^ (1 / 2 ^ i) * 2 ^ rootScale`; the row plus 2 is an upper bound. Each row is the
integer square root of the row before it times `2 ^ rootScale`, and row 0 would be `2 * 2 ^ rootScale`. -/
def twoRoots : List Nat := twoRootsA ++ twoRootsB ++ twoRootsC ++ twoRootsD ++ twoRootsE

/-- Multiply `lo` and `hi` by the enclosures of `2 ^ (1 / 2 ^ i)` for every binary digit 1 of `frac / 2 ^ rootCount`,
highest digit first; at the end the digits that were cut off widen `hi`. -/
def encloseDigits : List Nat → Nat → Nat → Nat → Nat × Nat
  | [], _, lo, hi => (lo, hi + hi / 2 ^ rootCount + 1)
  | root :: roots, frac, lo, hi =>
    if 2 ^ rootCount ≤ 2 * frac then
      encloseDigits roots (2 * frac - 2 ^ rootCount) (lo * root / 2 ^ rootScale)
        (hi * (root + 2) / 2 ^ rootScale + 1)
    else encloseDigits roots (2 * frac) lo hi

/-- Two naturals with `lo ≤ 2 ^ r * 2 ^ rootScale ≤ hi`, for a rational r in [0, 1). -/
def encloseTwoPow (r : ℚ) : Nat × Nat :=
  encloseDigits twoRoots (⌊r * 2 ^ rootCount⌋).toNat (2 ^ rootScale) (2 ^ rootScale)

/-- `2 ^ n` for an integer n. -/
def twoPowInt (n : Int) : ℚ := if 0 ≤ n then (2 ^ n.toNat : Nat) else 1 / (2 ^ (-n).toNat : Nat)

/-- Exactly whether `q ≤ c * 2 ^ r`, for c at least 0 and r a rational in [0, 1): both sides to the power of r's
denominator. -/
def exactGe (c r q : ℚ) : Bool := decide (q ≤ 0 ∨ q ^ r.den ≤ c ^ r.den * (2 ^ r.num.toNat : Nat))

/-- Is `q ≤ x`, for x of coefficient at least 0? -/
def exp2Ge (x : Exp2) (q : ℚ) : Bool :=
  let r := Int.fract x.exp
  let c := x.coef * twoPowInt ⌊x.exp⌋
  let bounds := encloseTwoPow r
  if q * (2 ^ rootScale : Nat) ≤ c * bounds.1 then true
  else if c * bounds.2 < q * (2 ^ rootScale : Nat) then false
  else exactGe c r q

/-- The largest integer among `top, top - 1, …, top - n` that is at most `c * 2 ^ r`, given that the last one is. -/
def exactFloorFrom (c r : ℚ) (top : Int) : Nat → Int
  | 0 => top
  | n + 1 => if exactGe c r top then top else exactFloorFrom c r (top - 1) n

/-- `floor(x)`, for x of coefficient at least 0. -/
def exp2Floor (x : Exp2) : Int :=
  let r := Int.fract x.exp
  let c := x.coef * twoPowInt ⌊x.exp⌋
  let bounds := encloseTwoPow r
  let low : Int := ⌊c * bounds.1 / (2 ^ rootScale : Nat)⌋
  let high : Int := ⌊c * bounds.2 / (2 ^ rootScale : Nat)⌋
  if low = high then low else exactFloorFrom c r high (high - low).toNat

/-- `q * x`. -/
def exp2Scale (q : ℚ) (x : Exp2) : Exp2 := { x with coef := q * x.coef }

end Sys2Proof.Machine
end

