-- ==== Sys2Proof/Machine/Exact.lean ====
section
/-! DEFINITION. The reference NUM: exact real numbers as plain data (00_scope.md R9 "The reference model takes values in ℝ",
R11). A value that is rational is kept as a rational; one that is not is kept as an expression over the sine, `2 ^ x` and
the draws, with `Exact.toReal` the real number it denotes. Rational bounds of an expression decide most comparisons and
floors; where they do not, the expression keeps the question open (`max`, `min`, `frac`, `choose`). Log entry 3. -/

namespace Sys2Proof

/-- A real number as an expression. -/
inductive Exact where
  /-- A rational. -/
  | rat (q : ℚ)
  /-- The n-th jitter variate (R14). -/
  | draw (n : Nat)
  /-- `sin(2 * pi * q)`. -/
  | sinTurn (q : ℚ)
  /-- `2 ^ x`. -/
  | twoPow (x : Exact)
  | add (x y : Exact)
  | mul (x y : Exact)
  /-- `1 / x`. -/
  | inv (x : Exact)
  | max (x y : Exact)
  | min (x y : Exact)
  /-- `frac(x)`. -/
  | frac (x : Exact)
  /-- The second number where the first is at least 0, else the third. -/
  | choose (test x y : Exact)
deriving DecidableEq, Repr

/-- The real number an expression denotes. -/
noncomputable def Exact.toReal : Exact → ℝ
  | .rat q => q
  | .draw n => Config.jitter.value n
  | .sinTurn q => Real.sin (2 * Real.pi * q)
  | .twoPow x => (2 : ℝ) ^ x.toReal
  | .add x y => x.toReal + y.toReal
  | .mul x y => x.toReal * y.toReal
  | .inv x => (x.toReal)⁻¹
  | .max x y => Max.max x.toReal y.toReal
  | .min x y => Min.min x.toReal y.toReal
  | .frac x => Int.fract x.toReal
  | .choose test x y => open Classical in if 0 ≤ test.toReal then x.toReal else y.toReal

namespace Config

/-- FREE VALUE. Whether an expression is at least 0, where neither its form nor its bounds decide it. It has no body:
nothing constrains it. No state that a run reaches asks it. Log entry 3. -/
opaque undecidedSign : Exact → Bool
/-- FREE VALUE. The floor of an expression, where neither its form nor its bounds decide it. It has no body: nothing
constrains it. No state that a run reaches asks it. Log entry 3. -/
opaque undecidedFloor : Exact → Int

end Config

namespace Machine

/-! ## Arithmetic: sums keep one rational in front, products with a rational are carried into sums -/

/-- `q + x`. -/
def exactAddRat (q : ℚ) : Exact → Exact
  | .rat p => .rat (q + p)
  | .add (.rat p) x => if q + p = 0 then x else .add (.rat (q + p)) x
  | x => if q = 0 then x else .add (.rat q) x

/-- An expression as a rational plus the rest, which is none where the expression is rational. -/
def exactSplit : Exact → ℚ × Option Exact
  | .rat q => (q, none)
  | .add (.rat q) x => (q, some x)
  | x => (0, some x)

/-- `x + y`. -/
def exactAdd (x y : Exact) : Exact :=
  match (exactSplit x).2, (exactSplit y).2 with
  | none, _ => exactAddRat (exactSplit x).1 y
  | some _, none => exactAddRat (exactSplit y).1 x
  | some u, some v => exactAddRat ((exactSplit x).1 + (exactSplit y).1) (.add u v)

/-- `c * x`. -/
def exactScale (c : ℚ) : Exact → Exact
  | .rat p => .rat (c * p)
  | .add x y => exactAdd (exactScale c x) (exactScale c y)
  | .mul (.rat p) x => if c * p = 0 then .rat 0 else if c * p = 1 then x else .mul (.rat (c * p)) x
  | x => if c = 0 then .rat 0 else if c = 1 then x else .mul (.rat c) x

/-- `x * y`. -/
def exactMul : Exact → Exact → Exact
  | .rat c, y => exactScale c y
  | x, .rat c => exactScale c x
  | x, y => .mul x y

/-- `x - y`. -/
def exactSub (x y : Exact) : Exact := exactAdd x (exactScale (-1) y)

/-- `x / y`; a quotient by 0 is 0, and no rule asks for one. -/
def exactDiv : Exact → Exact → Exact
  | x, .rat c => exactScale c⁻¹ x
  | x, y => exactMul x (.inv y)

/-- `2 ^ x`, rational where x is an integer. -/
def exactTwoPow : Exact → Exact
  | .rat q => if q.den = 1 then .rat (twoPowInt q.num) else .twoPow (.rat q)
  | x => .twoPow x

/-- `sin(2 * pi * q)`, reduced to the first quarter of the turn and rational at its ends. -/
def exactSinTurn (q : ℚ) : Exact :=
  let r := Int.fract q
  let s := if r < 1 / 2 then r else r - 1 / 2
  let t := if s ≤ 1 / 4 then s else 1 / 2 - s
  let value : Exact := if t = 0 then .rat 0 else if t = 1 / 4 then .rat 1 else .sinTurn t
  if r < 1 / 2 then value else exactScale (-1) value

/-! ## Rational bounds -/

/-- `pi` to 20 decimals, from below. -/
def piBelow : ℚ := 314159265358979323846 / 10 ^ 20

/-- The terms `x ^ m / m!` of the sine series from the power `m` on, in steps of two, with alternating signs. -/
def sineTerms : Nat → Nat → ℚ → ℚ → ℚ
  | 0, _, _, _ => 0
  | n + 1, m, square, term => term - sineTerms n (m + 2) square (term * square / ((m + 1) * (m + 2) : Nat))

/-- `sin(2 * pi * q)` for q in [0, 1/4], to 19 decimals. -/
def sineNear (q : ℚ) : ℚ := sineTerms 14 1 ((2 * piBelow * q) ^ 2) (2 * piBelow * q)

/-- How far `sineNear` may be from the sine. -/
def sineError : ℚ := 1 / 10 ^ 19

/-- Bounds of `2 ^ q`. -/
def twoPowBounds (q : ℚ) : ℚ × ℚ :=
  let near := encloseTwoPow (Int.fract q)
  (twoPowInt ⌊q⌋ * near.1 / (2 ^ rootScale : Nat), twoPowInt ⌊q⌋ * near.2 / (2 ^ rootScale : Nat))

/-- The least and the greatest of four products. -/
def productBounds (a b : ℚ × ℚ) : ℚ × ℚ :=
  (min (min (a.1 * b.1) (a.1 * b.2)) (min (a.2 * b.1) (a.2 * b.2)),
    max (max (a.1 * b.1) (a.1 * b.2)) (max (a.2 * b.1) (a.2 * b.2)))

/-- A rational at most, and one at least, the number an expression denotes; none where none is known. -/
def exactBounds : Exact → Option (ℚ × ℚ)
  | .rat q => some (q, q)
  | .draw _ => some (-1, 1)
  | .sinTurn q => if 0 ≤ q ∧ q ≤ 1 / 4 then some (sineNear q - sineError, sineNear q + sineError) else some (-1, 1)
  | .twoPow x =>
    match exactBounds x with
    | some b => some ((twoPowBounds b.1).1, (twoPowBounds b.2).2)
    | none => none
  | .add x y =>
    match exactBounds x, exactBounds y with
    | some a, some b => some (a.1 + b.1, a.2 + b.2)
    | _, _ => none
  | .mul x y =>
    match exactBounds x, exactBounds y with
    | some a, some b => some (productBounds a b)
    | _, _ => none
  | .inv x =>
    match exactBounds x with
    | some a => if 0 < a.1 ∨ a.2 < 0 then some (1 / a.2, 1 / a.1) else none
    | none => none
  | .max x y =>
    match exactBounds x, exactBounds y with
    | some a, some b => some (max a.1 b.1, max a.2 b.2)
    | _, _ => none
  | .min x y =>
    match exactBounds x, exactBounds y with
    | some a, some b => some (min a.1 b.1, min a.2 b.2)
    | _, _ => none
  | .frac _ => some (0, 1)
  | .choose _ x y =>
    match exactBounds x, exactBounds y with
    | some a, some b => some (min a.1 b.1, max a.2 b.2)
    | _, _ => none

/-! ## Signs -/

/-- An expression of the form `q + c * 2 ^ e` with c at least 0. -/
def exactExp2 (x : Exact) : Option (ℚ × Exp2) :=
  match (exactSplit x).2 with
  | some (.twoPow (.rat e)) => some ((exactSplit x).1, { coef := 1, exp := e })
  | some (.mul (.rat c) (.twoPow (.rat e))) =>
    if 0 ≤ c then some ((exactSplit x).1, { coef := c, exp := e }) else none
  | _ => none

/-- An expression that is linear in the draws: its constant and its terms. -/
def exactLinear : Exact → Option (ℚ × List (ℚ × Nat))
  | .rat q => some (q, [])
  | .draw n => some (0, [(1, n)])
  | .add x y =>
    match exactLinear x, exactLinear y with
    | some a, some b => some (a.1 + b.1, a.2 ++ b.2)
    | _, _ => none
  | .mul (.rat c) x =>
    match exactLinear x with
    | some a => some (c * a.1, a.2.map fun t => (c * t.1, t.2))
    | none => none
  | _ => none

/-- Is the expression at least 0, as far as its bounds say? -/
def exactSignByBounds (x : Exact) : Option Bool :=
  match exactBounds x with
  | some b => if 0 ≤ b.1 then some true else if b.2 < 0 then some false else none
  | none => none

/-- Is the expression at least 0? None where neither its form nor its bounds decide it. -/
def exactSign (x : Exact) : Option Bool :=
  match x with
  | .rat q => some (decide (0 ≤ q))
  | x =>
    match exactExp2 x with
    | some y => some (exp2Ge y.2 (-y.1))
    | none =>
      match exactSignByBounds x with
      | some b => some b
      | none =>
        match exactLinear x with
        | some l => some (Config.jitter.nonneg l.1 l.2)
        | none => none

/-- Is `x ≤ y`? -/
def exactLe (x y : Exact) : Bool :=
  match exactSign (exactSub y x) with
  | some b => b
  | none => Config.undecidedSign (exactSub y x)

/-- The third number where the first is at most the second, else the fourth. -/
def exactSelect (x y a b : Exact) : Exact :=
  match exactSign (exactSub y x) with
  | some true => a
  | some false => b
  | none => .choose (exactSub y x) a b

/-- The larger of two numbers. -/
def exactMax (x y : Exact) : Exact :=
  match exactSign (exactSub x y) with
  | some true => x
  | some false => y
  | none => .max x y

/-- The smaller of two numbers. -/
def exactMin (x y : Exact) : Exact :=
  match exactSign (exactSub y x) with
  | some true => x
  | some false => y
  | none => .min x y

/-! ## Floors -/

/-- `floor(q + x)`: with q = n / d it is `floor((n + floor(d * x)) / d)`. -/
def exp2FloorPlus (q : ℚ) (x : Exp2) : Int := (exp2Floor (exp2Scale q.den x) + q.num) / q.den

/-- The floor of an expression, where its form or its bounds decide it. -/
def exactFloorKnown (x : Exact) : Option Int :=
  match x with
  | .rat q => some ⌊q⌋
  | x =>
    match exactExp2 x with
    | some y => some (exp2FloorPlus y.1 y.2)
    | none =>
      match exactBounds x with
      | some b => if ⌊b.1⌋ = ⌊b.2⌋ then some ⌊b.1⌋ else none
      | none => none

/-- `floor(x)`. -/
def exactFloor (x : Exact) : Int :=
  match exactFloorKnown x with
  | some n => n
  | none => Config.undecidedFloor x

/-- `frac(x)`. -/
def exactFrac (x : Exact) : Exact :=
  match exactFloorKnown x with
  | some n => exactAddRat (-n) x
  | none => .frac x

/-- `f(floor(x))` where the floor is one of `lo, lo + 1, …, lo + n`. -/
def exactAtFloorFrom (x : Exact) (f : Int → Exact) (lo : Int) : Nat → Exact
  | 0 => f lo
  | n + 1 => exactSelect (.rat (lo + (n + 1 : Nat) : Int)) x (f (lo + (n + 1 : Nat))) (exactAtFloorFrom x f lo n)

/-- `f(floor(x))`. -/
def exactAtFloor (x : Exact) (f : Int → Exact) : Exact :=
  match exactFloorKnown x with
  | some n => f n
  | none =>
    match exactBounds x with
    | some b => exactAtFloorFrom x f ⌊b.1⌋ (⌊b.2⌋ - ⌊b.1⌋).toNat
    | none => f (Config.undecidedFloor x)

/-! ## NUM -/

/-- The reference NUM (00_scope.md R9). -/
@[reducible] def exactNum : NumSys Exact where
  add := exactAdd
  sub := exactSub
  mul := exactMul
  div := exactDiv
  neg := exactScale (-1)
  ofRat := .rat
  max := exactMax
  min := exactMin
  twoPow := exactTwoPow
  frac := exactFrac
  floor := exactFloor
  le := exactLe
  select := exactSelect
  atFloor := exactAtFloor

/-- NUM at ℝ itself: what the reference NUM denotes. -/
@[reducible] noncomputable def realNum : NumSys ℝ where
  ofRat := fun q => (q : ℝ)
  max := fun x y => Max.max x y
  min := fun x y => Min.min x y
  twoPow := fun x => (2 : ℝ) ^ x
  frac := fun x => Int.fract x
  floor := fun x => ⌊x⌋
  le := fun x y => decide (x ≤ y)
  select := fun x y a b => if x ≤ y then a else b
  atFloor := fun x f => f ⌊x⌋

end Machine

end Sys2Proof
end

