-- ==== Sys2Proof/Machine/Wavetable.lean ====
section
/-! DEFINITION. The wavetable ROM (10_state.md R54) and the sine lookup (41_oscillator.md R143). Only the sine table, the
parameter SINE_TABLE, is read by any rule. -/

namespace Sys2Proof.Machine

variable {N : Type}

/-- The saw table's entry k of `size` (R54); no rule reads it. -/
def sawTable (size k : Nat) : ℚ := 2 * ((k : ℚ) / size) - 1

/-- The square table's entry k of `size` (R54); no rule reads it. -/
def squareTable (size k : Nat) : ℚ := if (k : ℚ) / size < 1 / 2 then 1 else -1

/-- The triangle table's entry k of `size` (R54); no rule reads it. -/
def triangleTable (size k : Nat) : ℚ :=
  let x : ℚ := (k : ℚ) / size
  if x < 1 / 2 then 4 * x - 1 else 3 - 4 * x

/-- `SIN(x)`: the linearly interpolated sine-table value at `frac(x)` (41_oscillator.md R143). -/
def sineLookup (num : NumSys N) (T : Config.Tables N) (x : N) : N :=
  letI := num
  let u := num.frac x * num.ofRat T.tableSize
  num.atFloor u fun i =>
    let a := T.sineTable i.toNat
    let b := T.sineTable ((i.toNat + 1) % T.tableSize)
    a + (u - num.ofRat i) * (b - a)

end Sys2Proof.Machine
end

