-- ==== Sys2Proof/Machine/Warps.lean ====
section
/-! DEFINITION. The reference WARP functions (41_oscillator.md R146-R152): the value of the parameter WARP in the default
column of 00_scope.md R6. -/

namespace Sys2Proof.Machine

variable {N : Type} (num : NumSys N)

/-- `F_SAW` (R146). -/
def warpSaw (p : N) : N :=
  letI := num
  num.ofRat (1 / 4) + p / num.ofRat 2

/-- `F_SQUARE` (R147). -/
def warpSquare (p : N) : N :=
  letI := num
  num.select (num.ofRat (1 / 2)) p (num.ofRat (5 / 8) + (p - num.ofRat (1 / 2)) / num.ofRat 2)
    (num.ofRat (1 / 8) + p / num.ofRat 2)

/-- `F_PULSE` (R148). -/
def warpPulse (p : N) : N :=
  letI := num
  num.select (num.ofRat (1 / 4)) p (num.ofRat (5 / 8) + (p - num.ofRat (1 / 4)) / num.ofRat 3)
    (num.ofRat (1 / 8) + p)

/-- `F_DSINE` (R149). -/
def warpDsine (p : N) : N :=
  letI := num
  num.frac (num.ofRat 2 * p)

/-- The perturbed phase of resonance variant n (R150-R152). -/
def resoPhase (T : Config.Tables N) (n : Nat) (p : N) : N :=
  letI := num
  num.frac (p + T.resoAmp * sineLookup num T (num.frac (T.resoMult n * p)))

/-- `F_w`, the reference distortion function of a waveform (R146-R152). -/
def referenceWarp (T : Config.Tables N) (w : Wave) (p : N) : N :=
  match w with
  | .saw => warpSaw num p
  | .square => warpSquare num p
  | .pulse => warpPulse num p
  | .dsine => warpDsine num p
  | .reso1 => warpSaw num (resoPhase num T 1 p)
  | .reso2 => warpSquare num (resoPhase num T 2 p)
  | .reso3 => warpPulse num (resoPhase num T 3 p)

/-- The limit of the reference `F_w` from the left at an edge x, at x = 0 the limit at p → 1: what the column
`Φ_w(x⁻, d)` of R153 takes. Only SAW, SQUARE and PULSE have edges. -/
def referenceWarpLeft (_T : Config.Tables N) (w : Wave) (x : N) : N :=
  match w with
  | .saw => num.ofRat (3 / 4)
  | .square => num.select x (num.ofRat 0) (num.ofRat (7 / 8)) (num.ofRat (3 / 8))
  | .pulse => num.select x (num.ofRat 0) (num.ofRat (7 / 8)) (num.ofRat (3 / 8))
  | .dsine => num.ofRat 0
  | .reso1 => num.ofRat 0
  | .reso2 => num.ofRat 0
  | .reso3 => num.ofRat 0

end Sys2Proof.Machine
end

