-- ==== Sys2Proof/Machine/Reference.lean ====
section
/-! DEFINITION. The reference configuration: the default column of 00_scope.md R6 (log entry 4), over any NUM, and the one
that `exec` and `step` run, over the exact reals. -/

namespace Sys2Proof

namespace Config

/-- The type of V_POST in the reference configuration: the reference POST is stateless, so its state is a unit state
(10_state.md R51, 43_voice.md R233). -/
abbrev PostState := Unit

end Config

namespace Machine

/-- The reference `RATE_MS[i] = 0.5 * 2 ^ ((99 - i) / 6)` (00_scope.md R6, 42_envelope.md R182, D15). -/
def referenceRateMs {N : Type} (num : NumSys N) (i : Nat) : N :=
  letI := num
  num.ofRat (1 / 2) * num.twoPow (num.ofRat ((99 - (i : ℚ)) / 6))

/-- The reference `POST(s, m) = (m, s)` (43_voice.md R233, D30). -/
def referencePost {N : Type} (_active : Bank) (st : Config.PostState) (m : N) : N × Config.PostState := (m, st)

/-- The default column of 00_scope.md R6, given NUM, the sine of a fraction of a turn in it, and the draws of R14. -/
def referenceWith {N : Type} (num : NumSys N) (sinTurn : ℚ → N) (drawIdx : Nat → Nat) (drawJit : Nat → N) :
    Config.Params N Config.PostState where
  tableSize := 2048
  sineTable := fun k => sinTurn ((k : ℚ) / 2048)
  resoAmp := num.ofRat (1 / 8)
  resoMult := fun n => num.ofRat ((n : ℚ) + 1)
  num := num
  fs := 48000
  pool := 8
  blockLen := 64
  envDecim := 8
  cmdqCap := 64
  heldMax := 16
  fMin := num.ofRat 20
  fMax := num.ofRat 20000
  rateMs := referenceRateMs num
  rateInv := referenceRateInv num
  fastFactor := num.ofRat 2
  warp := referenceWarp num
  warpLeft := referenceWarpLeft num
  post := referencePost
  postInit := ()
  swingMax := num.ofRat (2 / 3)
  jitterMax := num.ofRat (1 / 2)
  arpFixedVel := num.ofRat 1
  drawIdx := drawIdx
  drawJit := drawJit

/-- The reference configuration over the exact reals of Machine/Exact.lean: SINE_TABLE[k] is `sin(2 * pi * k / TABLE_SIZE)`
itself, and the draws are the free values of Config. `exec` and `step` run this instance. -/
def ref : Config.Params Exact Config.PostState := referenceWith exactNum exactSinTurn Config.drawIdx .draw

/-- The reference configuration over ℝ: NUM's default (00_scope.md R9). -/
noncomputable def realRef : Config.Params ℝ Config.PostState :=
  referenceWith realNum (fun q => Real.sin (2 * Real.pi * q)) Config.drawIdx Config.jitter.value

end Machine

end Sys2Proof
end

