-- ==== Sys2Proof/Machine/State.lean ====
section
/-! DEFINITION. The architectural state (10_state.md R20-R58) over any NUM and any V_POST type, the state of the reference
instance, the reasons a step can stop, and reset (70_reset_and_hazards.md R431, R432). -/

namespace Sys2Proof.Machine

/-- An oscillator (10_state.md R49). -/
structure Osc where
  /-- PH, the 32-bit phase. -/
  ph : BitVec 32
  /-- INC, the 64-bit UQ32.32 increment. -/
  inc : BitVec 64
deriving DecidableEq, Repr

/-- An envelope unit (10_state.md R50). -/
structure Env (N : Type) where
  /-- E_STAGE, 0 to 7. -/
  stage : Fin 8
  /-- E_ACTIVE. -/
  active : Bool
  /-- E_REL. -/
  rel : Bool
  /-- E_HOLD. -/
  hold : Bool
  /-- E_VAL. -/
  val : N
  /-- E_V0. -/
  v0 : N
  /-- E_TGT. -/
  tgt : N
  /-- E_DUR. -/
  dur : Nat
  /-- E_K. -/
  k : Nat
deriving DecidableEq, Repr

/-- A voice slot (10_state.md R48-R51). -/
structure Voice (N Post : Type) where
  /-- V_NOTE. -/
  note : Note
  /-- V_VEL. -/
  vel : N
  /-- V_STAMP. -/
  stamp : BitVec 64
  /-- V_REL. -/
  rel : Bool
  /-- V_CTL, in [0, ENV_DECIM). -/
  ctl : Nat
  /-- OSC[1]. -/
  osc1 : Osc
  /-- OSC[2]. -/
  osc2 : Osc
  /-- ENV[DCW][1]. -/
  dcw1 : Env N
  /-- ENV[DCW][2]. -/
  dcw2 : Env N
  /-- ENV[DCA][1]. -/
  dca1 : Env N
  /-- ENV[DCA][2]. -/
  dca2 : Env N
  /-- ENV[PITCH][1]. -/
  pitch1 : Env N
  /-- ENV[PITCH][2]. -/
  pitch2 : Env N
  /-- V_POST. -/
  post : Post
deriving DecidableEq, Repr

/-- ARP_DIR, +1 or -1 (10_state.md R53). -/
inductive Dir where
  | plus | minus
deriving DecidableEq, Repr

/-- The block's state: "the record of the elements named in this file and nothing else" (10_state.md R20). -/
structure Block (N Post : Type) where
  /-- TIME (R21). -/
  time : BitVec 64
  /-- RR_CURSOR (R22). -/
  rrCursor : Nat
  /-- MODWHEEL (R23). -/
  modWheel : N
  /-- AFTERTOUCH (R24). -/
  aftertouch : N
  /-- PITCHBEND, in semitones (R25). -/
  pitchBend : N
  /-- LFO_IN (R26). -/
  lfoIn : N
  /-- CMDQ, oldest first (R27). -/
  cmdq : List Rec
  /-- OUT_L (R28). -/
  outL : N
  /-- OUT_R (R28). -/
  outR : N
  /-- SHADOW (R29). -/
  shadow : Bank
  /-- PENDING (R29). -/
  pending : Bank
  /-- ACTIVE (R29). -/
  active : Bank
  /-- PENDING_VALID (R29). -/
  pendingValid : Bool
  /-- V[0..POOL-1], in slot order (R47). -/
  voices : List (Voice N Post)
  /-- HELD, in press order (R53). -/
  held : List Note
  /-- ARP_RUN (R53). -/
  arpRun : Bool
  /-- ARP_IDX (R53). -/
  arpIdx : Nat
  /-- ARP_DIR (R53). -/
  arpDir : Dir
  /-- ARP_ACC (R53). -/
  arpAcc : N
  /-- ARP_STEP (R53). -/
  arpStep : Nat
  /-- ARP_LEN (R53). -/
  arpLen : N
  /-- ARP_BASE (R53). -/
  arpBase : N
  /-- ARP_NOTE (R53). -/
  arpNote : Note
  /-- ARP_GATE_OPEN (R53). -/
  arpGateOpen : Bool
deriving DecidableEq, Repr

/-- An event the allocator receives (00_scope.md R4, R13): the allocator's two entry points. -/
inductive AllocEvent (N : Type) where
  /-- `Alloc.noteOn(n, v)`. -/
  | noteOn (n : Note) (vel : N)
  /-- `Alloc.noteOff(n)`. -/
  | noteOff (n : Note)
deriving DecidableEq, Repr

/-- The block with what the engine's rules read and write beside its state: which draw comes next (an input, R14) and the
events the allocator has received (an observable result, R4). Neither is an element of the spec's state. -/
structure Engine (N Post : Type) extends Block N Post where
  /-- The model's own: how many draws (00_scope.md R14) have been taken; it indexes the draws. Log entry 5. -/
  draws : Nat
  /-- The model's own: the events the allocator has received since reset, oldest first (R4). No rule reads it. Log entry 16. -/
  events : List (AllocEvent N)
deriving DecidableEq, Repr

/-- The machine of the reference instance: the engine, and the driver's part. -/
structure State extends Engine Exact Config.PostState where
  /-- The model's own: what the driver has still to deliver (00_scope.md R4, 10_state.md R55), next first: operation words,
  and command records that are to be applied on their own (log entry 2). Log entry 1. -/
  stimulus : List Encoded
deriving DecidableEq, Repr

/-- Why the machine stops with a fault: never. The block "raises no exception, fault, trap or error indication of any
kind" (60_exceptions.md R410), so there is no reason to list. -/
inductive Fault where
deriving DecidableEq, Repr

/-- Why the model refuses. -/
inductive Refusal where
  /-- An arm of exec that has no meaning yet; safe. No arm uses it. -/
  | notModelled (mnemonic : String)
deriving DecidableEq, Repr

/-! ## Reset -/

/-- An oscillator at reset (10_state.md R49). -/
def Osc.reset : Osc := { ph := 0, inc := 0 }

variable {N Post : Type}

/-- An envelope unit at reset (10_state.md R50). -/
def Env.reset (P : Config.Params N Post) : Env N :=
  { stage := 0, active := false, rel := false, hold := false, val := numOf P 0, v0 := numOf P 0, tgt := numOf P 0
    dur := 1, k := 0 }

/-- A voice at reset (10_state.md R48-R51). -/
def Voice.reset (P : Config.Params N Post) : Voice N Post :=
  { note := 0, vel := numOf P 0, stamp := 0, rel := false, ctl := 0, osc1 := Osc.reset, osc2 := Osc.reset
    dcw1 := Env.reset P, dcw2 := Env.reset P, dca1 := Env.reset P, dca2 := Env.reset P
    pitch1 := Env.reset P, pitch2 := Env.reset P, post := P.postInit }

/-- The block after power-on reset, for any parameters (70_reset_and_hazards.md R430-R432). The empty banks hold the words
of 10_state.md R58, VLIM = POOL among them, and ARP_LEN = ARP_BASE = `BASE()` of the reset bank. -/
def Block.reset (P : Config.Params N Post) : Block N Post :=
  { time := 0, rrCursor := 0, modWheel := numOf P 0, aftertouch := numOf P 0, pitchBend := numOf P 0
    lfoIn := numOf P 0, cmdq := [], outL := numOf P 0, outR := numOf P 0, shadow := [], pending := [], active := []
    pendingValid := false, voices := List.replicate P.pool (Voice.reset P), held := [], arpRun := false
    arpIdx := 0, arpDir := .plus, arpAcc := numOf P 0, arpStep := 0, arpLen := baseLength P []
    arpBase := baseLength P [], arpNote := 0, arpGateOpen := false }

/-- The engine after reset: no draw taken, no event received. -/
def Engine.reset (P : Config.Params N Post) : Engine N Post := { toBlock := Block.reset P, draws := 0, events := [] }

/-- The machine after power-on reset (R430, R431): the reference instance, with nothing delivered. -/
def State.reset : State := { toEngine := Engine.reset ref, stimulus := [] }

/-- A state with its engine replaced by what a rule makes of it. -/
def State.onEngine (s : State) (rule : Engine Exact Config.PostState → Engine Exact Config.PostState) : State :=
  { s with toEngine := rule s.toEngine }

end Sys2Proof.Machine
end

