-- ==== Sys2Proof/Machine/Envelope.lean ====
section
/-! DEFINITION. The multi-stage envelope generator (42_envelope.md R180-R192). The bank fields `T = P.env[t][l]` of a unit
are read from the active bank `b`. -/

namespace Sys2Proof.Machine

variable {N Post : Type} (P : Config.Params N Post)

/-! ## Rate timing model (R180-R183) -/

/-- `idx(r)` of a stored RATE code (R181). -/
def rateIndex (rate : Code) : Nat := (rhu (99 * uq15 rate)).toNat

/-- `ms(i)`, the duration of rate index i in milliseconds, in the normal or the faster table (R182). -/
def rampMs (fast : Bool) (i : Nat) : N :=
  letI := P.num
  if fast && decide (50 ≤ i) then P.rateMs i / P.fastFactor else P.rateMs i

/-- `DUR(i)`, the ramp length of rate index i in control ticks (R183). -/
def rampTicks (fast : Bool) (i : Nat) : Nat :=
  letI := P.num
  max 1 (numRhu P (rampMs P fast i * numOf P P.fs / numOf P (1000 * P.envDecim : Nat))).toNat

/-! ## Stage sequencer (R185-R191) -/

/-- `ARM(E, s)` (R185). -/
def envArm (b : Bank) (t : EnvType) (l : Line) (e : Env N) (s : Fin 8) : Env N :=
  { e with
    v0 := e.val
    tgt := numOf P (uq15 (stageLevel P b t l s))
    dur := rampTicks P (fastMode P b) (rateIndex (stageRate P b t l s))
    k := 0 }

/-- `ENV_NOTE_ON(E)` (R187). -/
def envNoteOn (b : Bank) (t : EnvType) (l : Line) (e : Env N) : Env N :=
  envArm P b t l
    { e with stage := 0, active := true, rel := false, hold := false, val := numOf P (envInitial P b t l) } 0

/-- `ENV_NOTE_OFF(E)` (R188). -/
def envNoteOff (b : Bank) (t : EnvType) (l : Line) (e : Env N) : Env N :=
  if e.active then
    envArm P b t l { e with rel := true, hold := false, stage := endPoint P b t l } (endPoint P b t l)
  else e

/-- `COMPLETE(E)` (R190). -/
def envComplete (b : Bank) (t : EnvType) (l : Line) (e : Env N) : Env N :=
  if sustainPoint P b t l = some e.stage ∧ e.rel = false then { e with hold := true }
  else if endPoint P b t l ≤ e.stage then { e with active := false }
  else envArm P b t l { e with stage := e.stage + 1 } (e.stage + 1)

/-- The linear ramp of R186 after `k` of `e`'s control ticks. -/
def envRamp (e : Env N) (k : Nat) : N :=
  letI := P.num
  e.v0 + (e.tgt - e.v0) * numOf P k / numOf P e.dur

/-- `ENV_ADVANCE(E)` (R189). -/
def envAdvance (b : Bank) (t : EnvType) (l : Line) (e : Env N) : Env N :=
  if e.active = false ∨ e.hold = true then e
  else if e.dur ≤ e.k + 1 then envComplete P b t l { e with k := e.k + 1, val := e.tgt }
  else { e with k := e.k + 1, val := envRamp P e (e.k + 1) }

end Sys2Proof.Machine
end

