-- ==== Sys2Proof/Machine/Flags.lean ====
section
/-! DEFINITION. The block has no condition codes (10_state.md R56). Here stand the state derived from its one-bit elements:
the allocator state of a voice (R52) and the status word (43_voice.md R236). -/

namespace Sys2Proof.Machine

variable {N Post : Type} (P : Config.Params N Post)

/-- The allocator's voice states (R52). -/
inductive VoiceState where
  | free | active | releasing
deriving DecidableEq, Repr

/-- `dcaLive(v)` (R52). -/
def dcaLive (b : Bank) (v : Voice N Post) : Bool := v.dca1.active || (line2On P b && v.dca2.active)

/-- `state(v)` (R52), read with the active bank. -/
def voiceState (b : Bank) (v : Voice N Post) : VoiceState :=
  if dcaLive P b v then (if v.rel then .releasing else .active) else .free

/-- Is the voice Free? -/
def isFree (b : Bank) (v : Voice N Post) : Bool := decide (voiceState P b v = .free)

/-- Is the voice Active? -/
def isActive (b : Bank) (v : Voice N Post) : Bool := decide (voiceState P b v = .active)

/-- Is the voice Releasing? -/
def isReleasing (b : Bank) (v : Voice N Post) : Bool := decide (voiceState P b v = .releasing)

/-- The status word of a voice (43_voice.md R236). -/
def voiceStatus (b : Bank) (v : Voice N Post) : BitVec 16 :=
  0#6 ++ (BitVec.ofBool (isReleasing P b v) ++ (BitVec.ofBool (!isFree P b v) ++ (0#1 ++ v.note)))

/-- `STATUS(v)`, the status read-out of slot v; none where there is no slot v (20_memory.md R72). -/
def status (s : Engine N Post) (v : Nat) : Option (BitVec 16) := s.voices[v]?.map (voiceStatus P s.active)

end Sys2Proof.Machine
end

