-- ==== Sys2Proof/Machine/Oscillator.lean ====
section
/-! DEFINITION. The phase-distortion oscillator (41_oscillator.md R140-R160). SINE_TABLE, TABLE_SIZE and WARP are
parameters; the reference WARP is in Machine/Warps.lean. -/

namespace Sys2Proof.Machine

variable {N Post : Type} (P : Config.Params N Post)

/-! ## Phase accumulator (R140-R142) -/

/-- The wrap count of `ACC(ph, inc)` (R140). -/
def accWraps (ph : BitVec 32) (inc : BitVec 64) : Nat := (ph.toNat + inc.toNat) / 2 ^ 32

/-- `ACC(ph, inc)`: the advanced phase and the wrap flag (R140). -/
def acc (ph : BitVec 32) (inc : BitVec 64) : BitVec 32 × Bool :=
  (BitVec.ofNat 32 (ph.toNat + inc.toNat), decide (1 ≤ accWraps ph inc))

/-- The real phase of a phase register (R141). -/
def phaseOf (ph : BitVec 32) : ℚ := (ph.toNat : ℚ) / (2 ^ 32 : Nat)

/-- The real increment of an increment register, in cycles per sample (R141). -/
def incrementOf (inc : BitVec 64) : ℚ := (inc.toNat : ℚ) / (2 ^ 32 : Nat)

/-- `INCR(f)`: the increment register of a frequency (R142). -/
def incr (f : N) : BitVec 64 :=
  letI := P.num
  BitVec.ofNat 64 (min (P.num.floor (f * numOf P (2 ^ 32 : Nat) / numOf P P.fs)).toNat (2 ^ 64 - 1))

/-! ## Sine lookup and warped phase (R143, R145) -/

/-- `SIN(x)` with the table of the parameters (R143). -/
def sineOf (x : N) : N := sineLookup P.num P.toTables x

/-- `F_w(p)` of the parameters (R145). -/
def warp (w : Wave) (p : N) : N := P.warp P.toTables w p

/-- `(1 - d) * p + d * f`, the interpolation between the undistorted phase and a distorted one (R145). -/
def blendPhase (p f d : N) : N :=
  letI := P.num
  (numOf P 1 - d) * p + d * f

/-- `Phi_w(p, d)`, the warped phase (R145). -/
def warpedPhase (w : Wave) (p d : N) : N := blendPhase P p (warp P w p) d

/-! ## Band-limited step correction (R153-R155) -/

/-- The phases of a waveform's corrected edges (R153). -/
def edgePhases (w : Wave) : List ℚ :=
  match w with
  | .saw => [0]
  | .square => [0, 1 / 2]
  | .pulse => [0, 1 / 4]
  | .dsine => []
  | .reso1 => []
  | .reso2 => []
  | .reso3 => []

/-- `Phi_w(x⁺, d)`: the warp on the piece that starts at x (R153). -/
def edgeRight (w : Wave) (x : ℚ) (d : N) : N := warpedPhase P w (numOf P x) d

/-- `Phi_w(x⁻, d)`: the limit from the left, "for x = 0 it is taken at p → 1" (R153). -/
def edgeLeft (w : Wave) (x : ℚ) (d : N) : N :=
  blendPhase P (numOf P (if x = 0 then 1 else x)) (P.warpLeft P.toTables w (numOf P x)) d

/-- `H(x, d)`, the jump height of an edge (R153). -/
def edgeHeight (w : Wave) (x : ℚ) (d : N) : N :=
  letI := P.num
  sineOf P (edgeRight P w x d) - sineOf P (edgeLeft P w x d)

/-- `PB(t, dt)`, the two-sample polynomial step residual (R154). -/
def polyBlep (t dt : N) : N :=
  letI := P.num
  let x := t / dt
  let y := (t - numOf P 1) / dt
  P.num.select dt t
    (P.num.select t (numOf P 1 - dt) (numOf P 0) (y * y + numOf P 2 * y + numOf P 1))
    (numOf P 2 * x - x * x - numOf P 1)

/-- The sum of some numbers, first to last. -/
def numSum (xs : List N) : N :=
  letI := P.num
  xs.foldl (fun sum x => sum + x) (numOf P 0)

/-- `BLEP_w(ps, dts, d)`, the correction added to the raw sample (R155). -/
def blep (w : Wave) (ps dts d : N) : N :=
  letI := P.num
  P.num.select (numOf P (1 / 2)) dts (numOf P 0)
    (numSum P ((edgePhases w).map fun x =>
      edgeHeight P w x d / numOf P 2 * polyBlep P (P.num.frac (ps - numOf P x)) dts))

/-! ## Render (R156-R159) -/

/-- The waveform, stretched phase and scaled increment of one render (R156). -/
def splitPhase (b : Bank) (l : Line) (o : Osc) : Wave × ℚ × ℚ :=
  if dualWave P b l then
    (if o.ph.getLsbD 31 then waveB P b l else waveA P b l, phaseOf (BitVec.ofNat 32 (2 * o.ph.toNat)),
      2 * incrementOf o.inc)
  else (waveA P b l, phaseOf o.ph, incrementOf o.inc)

/-- `SIN(Phi_w(ps, d)) + BLEP_w(ps, dts, d)`, clamped to [-1, 1] (R157, R158). -/
def waveSample (w : Wave) (ps dts d : N) : N :=
  letI := P.num
  numClamp P (sineOf P (warpedPhase P w ps d) + blep P w ps dts d) (numOf P (-1)) (numOf P 1)

/-- The sample of an oscillator at its present phase (R157). -/
def oscSample (b : Bank) (l : Line) (o : Osc) (d : N) : N :=
  waveSample P (splitPhase P b l o).1 (numOf P (splitPhase P b l o).2.1) (numOf P (splitPhase P b l o).2.2) d

/-- `OSC_RENDER` (R157): the sample at the phase before the advance, the wrap flag, and the advanced oscillator. -/
def oscRender (b : Bank) (l : Line) (o : Osc) (d : N) : N × Bool × Osc :=
  (oscSample P b l o d, (acc o.ph o.inc).2, { o with ph := (acc o.ph o.inc).1 })

/-- `PHASE_RESET` (R159). -/
def phaseReset (o : Osc) : Osc := { o with ph := 0 }

end Sys2Proof.Machine
end

