-- ==== Sys2Proof/Machine/Voice.lean ====
section
/-! DEFINITION. The voice, mixer and gate logic (43_voice.md R220-R233). -/

namespace Sys2Proof.Machine

variable {N Post : Type} (P : Config.Params N Post)

/-! ## A voice's units -/

/-- ENV[t][l] of a voice. -/
def voiceEnv (v : Voice N Post) (t : EnvType) (l : Line) : Env N :=
  match t, l with
  | .dcw, .one => v.dcw1
  | .dcw, .two => v.dcw2
  | .dca, .one => v.dca1
  | .dca, .two => v.dca2
  | .pitch, .one => v.pitch1
  | .pitch, .two => v.pitch2

/-- OSC[l] of a voice. -/
def voiceOsc (v : Voice N Post) (l : Line) : Osc :=
  match l with
  | .one => v.osc1
  | .two => v.osc2

/-- Apply an envelope operation to the six units, in the order of R220; they share no state. -/
def mapEnvs (f : EnvType → Line → Env N → Env N) (v : Voice N Post) : Voice N Post :=
  { v with
    dcw1 := f .dcw .one v.dcw1
    dcw2 := f .dcw .two v.dcw2
    dca1 := f .dca .one v.dca1
    dca2 := f .dca .two v.dca2
    pitch1 := f .pitch .one v.pitch1
    pitch2 := f .pitch .two v.pitch2 }

/-! ## Gate operations -/

/-- `VOICE_NOTE_ON` (R220). -/
def voiceNoteOn (b : Bank) (time : BitVec 64) (n : Note) (vel : N) (v : Voice N Post) : Voice N Post :=
  mapEnvs (envNoteOn P b)
    { v with
      note := n
      vel := vel
      stamp := time
      rel := false
      ctl := 0
      osc1 := phaseReset v.osc1
      osc2 := phaseReset v.osc2 }

/-- `VOICE_NOTE_OFF` (R221). -/
def voiceNoteOff (b : Bank) (v : Voice N Post) : Voice N Post := mapEnvs (envNoteOff P b) { v with rel := true }

/-! ## Pitch and amounts -/

/-- `440 * 2 ^ ((semis - 69) / 12)` Hz (R222, R226). -/
def pitchHz (semis : N) : N :=
  letI := P.num
  numOf P 440 * P.num.twoPow ((semis - numOf P 69) / numOf P 12)

/-- `fbase(n)`, the base frequency of a note (R222). -/
def baseHz (n : Note) : N := pitchHz P (numOf P n.toNat)

/-- `semis_l`, the pitch of line l in semitones (R226). -/
def semitones (s : Engine N Post) (v : Voice N Post) (l : Line) : N :=
  letI := P.num
  numOf P v.note.toNat + s.pitchBend + numOf P (oscDetune P s.active l)
    + numOf P (penvDepth P s.active) * (voiceEnv v .pitch l).val
    + s.lfoIn * (numOf P (vibDepth P s.active) + numOf P (wheelVib P s.active) * s.modWheel)

/-- `FREQ(v, l)`, the clamped frequency (R226). -/
def voiceFreq (s : Engine N Post) (v : Voice N Post) (l : Line) : N :=
  numClamp P (pitchHz P (semitones P s v l)) P.fMin P.fMax

/-- `DCW_AMT(v, l)` (R227). -/
def dcwAmount (s : Engine N Post) (v : Voice N Post) (l : Line) : N :=
  letI := P.num
  numClamp01 P ((voiceEnv v .dcw l).val * (numOf P 1 - numOf P (vsDcw P s.active) * (numOf P 1 - v.vel))
    * (numOf P 1 - numOf P (kfDcw P s.active * v.note.toNat / 127)) + numOf P (atDcw P s.active) * s.aftertouch)

/-- `DCA_AMT(v, l)` (R228). -/
def dcaAmount (s : Engine N Post) (v : Voice N Post) (l : Line) : N :=
  letI := P.num
  (voiceEnv v .dca l).val * (numOf P 1 - numOf P (vsDca P s.active) * (numOf P 1 - v.vel))

/-- `s_l`, the signal of line l from its sample y (R228). -/
def lineSignal (s : Engine N Post) (v : Voice N Post) (l : Line) (y : N) : N :=
  letI := P.num
  numOf P (oscLevel P s.active l) * dcaAmount P s v l * y

/-- `MIX(s1, s2)` (R230). -/
def mix (b : Bank) (s1 s2 : N) : N :=
  letI := P.num
  if line2On P b then (if ringOn P b then s1 * s2 else s1 + s2) else s1

/-! ## Render -/

/-- Step (1) of a render: the envelopes advance where V_CTL = 0, and V_CTL counts modulo ENV_DECIM (R224, R225). -/
def renderEnvelopes (b : Bank) (v : Voice N Post) : Voice N Post :=
  let v' := if v.ctl = 0 then mapEnvs (envAdvance P b) v else v
  { v' with ctl := (v.ctl + 1) % P.envDecim }

/-- Step (2) of a render: both increments (R224, R226). -/
def renderPitch (s : Engine N Post) (v : Voice N Post) : Voice N Post :=
  { v with
    osc1 := { v.osc1 with inc := incr P (voiceFreq P s v .one) }
    osc2 := { v.osc2 with inc := incr P (voiceFreq P s v .two) } }

/-- Oscillator 2 as it renders: reset where hard sync is on and oscillator 1 wrapped (R229). -/
def syncedOsc2 (b : Bank) (v : Voice N Post) : Osc :=
  if syncOn P b && (acc v.osc1.ph v.osc1.inc).2 then phaseReset v.osc2 else v.osc2

/-- Steps (3) to (6) of a render: the oscillators, the mix and POST (R224). -/
def renderMix (s : Engine N Post) (v : Voice N Post) : N × Voice N Post :=
  let r1 := oscRender P s.active .one v.osc1 (dcwAmount P s v .one)
  let r2 := oscRender P s.active .two (syncedOsc2 P s.active v) (dcwAmount P s v .two)
  let m := mix P s.active (lineSignal P s v .one r1.1) (lineSignal P s v .two r2.1)
  let out := P.post s.active v.post m
  (out.1, { v with osc1 := r1.2.2, osc2 := r2.2.2, post := out.2 })

/-- `VOICE_RENDER` (R224): the voice's sample and the voice after it. A Free voice gives 0 and is unchanged (R232). -/
def voiceRender (s : Engine N Post) (v : Voice N Post) : N × Voice N Post :=
  if isFree P s.active v then (numOf P 0, v) else renderMix P s (renderPitch P s (renderEnvelopes P s.active v))

end Sys2Proof.Machine
end

