-- ==== Sys2Proof/Machine/Allocator.lean ====
section
/-! DEFINITION. The voice allocator (44_events.md R262-R269). Each call of one of its two entry points is recorded as an event
it receives (00_scope.md R4, R13). -/

namespace Sys2Proof.Machine

variable {N Post : Type} (P : Config.Params N Post)

/-- VOICE_NOTE_ON on slot v (43_voice.md R220). -/
def triggerSlot (s : Engine N Post) (v : Nat) (n : Note) (vel : N) : Engine N Post :=
  { s with voices := s.voices.modify v (voiceNoteOn P s.active s.time n vel) }

/-- VOICE_NOTE_OFF on slot v (43_voice.md R221). -/
def releaseSlot (s : Engine N Post) (v : Nat) : Engine N Post :=
  { s with voices := s.voices.modify v (voiceNoteOff P s.active) }

/-- The allocator receives an event (00_scope.md R4). -/
def receiveEvent (s : Engine N Post) (e : AllocEvent N) : Engine N Post := { s with events := s.events ++ [e] }

/-- The lowest slot of the whole pool that is non-Free and holds note n (R262 case 1, R263). -/
def retriggerSlot (s : Engine N Post) (n : Note) : Option Nat :=
  s.voices.findIdx? fun v => !isFree P s.active v && v.note == n

/-- The slots 0..VLIM-1, the ones given new notes (R264, R265). -/
def limitedVoices (s : Engine N Post) : List (Voice N Post) := s.voices.take (voiceLimit P s.active)

/-- The lowest Free slot below VLIM (R262 case 2, R264). -/
def freeSlot (s : Engine N Post) : Option Nat := (limitedVoices P s).findIdx? (isFree P s.active)

/-- The least V_STAMP of some voices, at most `least`. -/
def leastStamp (vs : List (Voice N Post)) (least : Nat) : Nat := vs.foldl (fun m v => min m v.stamp.toNat) least

/-- The oldest slot below VLIM: the least V_STAMP, the lowest index among equals (R265, STEAL = 0). -/
def oldestSlot (s : Engine N Post) : Nat :=
  let least := leastStamp (limitedVoices P s) (2 ^ 64)
  (limitedVoices P s).findIdx fun v => v.stamp.toNat == least

/-- `STEAL_SELECT()` (R265): the victim, and the state with RR_CURSOR as the choice leaves it. -/
def stealSelect (s : Engine N Post) : Nat × Engine N Post :=
  if roundRobinSteal P s.active then
    match (limitedVoices P s).findIdx? (isReleasing P s.active) with
    | some v => (v, s)
    | none =>
      let cursor := (s.rrCursor + 1) % voiceLimit P s.active
      (cursor, { s with rrCursor := cursor })
  else (oldestSlot P s, s)

/-- The slot `Alloc.noteOn` gives note n, and the state with RR_CURSOR as the choice leaves it (R262). -/
def allocSelect (s : Engine N Post) (n : Note) : Nat × Engine N Post :=
  match retriggerSlot P s n with
  | some v => (v, s)
  | none =>
    match freeSlot P s with
    | some v => (v, s)
    | none => stealSelect P s

/-- `Alloc.noteOn(n, vel)` (R262). -/
def allocNoteOn (s : Engine N Post) (n : Note) (vel : N) : Engine N Post :=
  receiveEvent (triggerSlot P (allocSelect P s n).2 (allocSelect P s n).1 n vel) (.noteOn n vel)

/-- The lowest Active slot with note n (R266). -/
def noteOffSlot (s : Engine N Post) (n : Note) : Option Nat :=
  s.voices.findIdx? fun v => isActive P s.active v && v.note == n

/-- The release of R266: the lowest Active slot with note n, if there is one. -/
def releaseNote (s : Engine N Post) (n : Note) : Engine N Post :=
  match noteOffSlot P s n with
  | some v => releaseSlot P s v
  | none => s

/-- `Alloc.noteOff(n)` (R266). -/
def allocNoteOff (s : Engine N Post) (n : Note) : Engine N Post := receiveEvent (releaseNote P s n) (.noteOff n)

/-- VOICE_NOTE_OFF on every Active slot (R268). Slots share no state, so the order does not show. -/
def releaseActive (s : Engine N Post) : Engine N Post :=
  { s with voices := s.voices.map fun v => if isActive P s.active v then voiceNoteOff P s.active v else v }

end Sys2Proof.Machine
end

