-- ==== Sys2Proof/Machine/Arpeggiator.lean ====
section
/-! DEFINITION. The arpeggiator step sequencer (46_arpeggiator.md R340-R363). -/

namespace Sys2Proof.Machine

variable {N Post : Type} (P : Config.Params N Post)

/-! ## The note buffer (R348) -/

/-- The held notes in ascending order. -/
def sortedHeld (held : List Note) : List Note := held.insertionSort fun a b => a.toNat ≤ b.toNat

/-- The base list in octave o, notes above 127 dropped. -/
def octaveNotes (base : List Note) (o : Nat) : List Note :=
  (base.filter fun x => decide (x.toNat + 12 * o ≤ 127)).map fun x => BitVec.ofNat 7 (x.toNat + 12 * o)

/-- `buf()`: the octave-multiplied, pattern-ordered note buffer (R348). -/
def noteBuffer (b : Bank) (held : List Note) : List Note :=
  let base := if arpPattern P b = .asPlayed then held else sortedHeld held
  let out := (List.range (octRange P b)).flatMap (octaveNotes base)
  if arpPattern P b = .down then out.reverse else out

/-! ## Selection (R350-R352) -/

/-- SELECT for Up, Down and AsPlayed: the index, and the new ARP_IDX (R350). -/
def selectCyclic (idx len : Nat) : Nat × Nat :=
  let i := if idx < len then idx else 0
  (i, i + 1)

/-- ARP_DIR as an integer. -/
def dirStep : Dir → Int
  | .plus => 1
  | .minus => -1

/-- SELECT for UpDown: the index, the new ARP_IDX and the new ARP_DIR (R351). -/
def selectUpDown (idx : Nat) (dir : Dir) (len : Nat) : Nat × Nat × Dir :=
  let i : Int := min (idx : Int) ((len : Int) - 1)
  let j := i + dirStep dir
  let (j, dir) := if (len : Int) - 1 < j then (i - 1, Dir.minus) else (j, dir)
  let (j, dir) := if j < 0 then (i + 1, Dir.plus) else (j, dir)
  (i.toNat, j.toNat, dir)

/-- `draw_idx`: any index in [0, len) (R352; 00_scope.md R14). Free value; with one note there is one choice. -/
def drawIndex (draws len : Nat) : Nat := if len ≤ 1 then 0 else P.drawIdx draws % len

/-- `SELECT(L)` by the pattern (R349): the index, and the state with ARP_IDX and ARP_DIR as it leaves them. -/
def selectStep (s : Engine N Post) (len : Nat) : Nat × Engine N Post :=
  match arpPattern P s.active with
  | .up | .down | .asPlayed =>
    let r := selectCyclic s.arpIdx len
    (r.1, { s with arpIdx := r.2 })
  | .upDown =>
    let r := selectUpDown s.arpIdx s.arpDir len
    (r.1, { s with arpIdx := r.2.1, arpDir := r.2.2 })
  | .random => (drawIndex P s.draws len, { s with draws := s.draws + 1 })

/-! ## Step timing (R355-R357) -/

/-- The swing factor of step k (R355). -/
def swingFactor (b : Bank) (k : Nat) : N :=
  letI := P.num
  if k % 2 = 0 then numOf P 1 + arpSwing P b / numOf P 2 else numOf P 1 - arpSwing P b / numOf P 2

/-- `draw_jit`: any number in [-1, 1] (R356; 00_scope.md R14). Free value. -/
def drawJitter (draws : Nat) : N := numClamp P (P.drawJit draws) (numOf P (-1)) (numOf P 1)

/-- The jitter factor `1 + J * u` (R356). -/
def jitterFactor (b : Bank) (draws : Nat) : N :=
  letI := P.num
  numOf P 1 + arpJitter P b * drawJitter P draws

/-- `STEPLEN(k)` with the draw numbered by `draws` (R357). -/
def stepLength (s : Engine N Post) (k : Nat) : N :=
  letI := P.num
  s.arpBase * swingFactor P s.active k * jitterFactor P s.active s.draws

/-- `ARP_LEN <- STEPLEN(ARP_STEP)`, taking one draw (R341, R347, R356). -/
def startLength (s : Engine N Post) : Engine N Post :=
  { s with arpLen := stepLength P s s.arpStep, draws := s.draws + 1 }

/-! ## Sequencer actions (R344-R347) -/

/-- `ARP_FIRE()` (R345). -/
def arpFire (s : Engine N Post) : Engine N Post :=
  let buf := noteBuffer P s.active s.held
  let r := selectStep P s buf.length
  let note := buf.getD r.1 0
  { allocNoteOn P { r.2 with arpNote := note } note P.arpFixedVel with arpGateOpen := true }

/-- `ARP_GATE_CLOSE()` (R346). -/
def arpGateClose (s : Engine N Post) : Engine N Post :=
  if s.arpGateOpen then { allocNoteOff P s s.arpNote with arpGateOpen := false } else s

/-- `ARP_STOP()` (R344). -/
def arpStop (s : Engine N Post) : Engine N Post := { arpGateClose P s with arpRun := false }

/-- Has the present step run its length? (R347 point 1) -/
def stepOver (s : Engine N Post) : Bool := P.num.le s.arpLen s.arpAcc

/-- Step end, point 1 of R347: the next step starts where the present one has run its length. -/
def arpStepEnd (s : Engine N Post) : Engine N Post :=
  letI := P.num
  if stepOver P s then
    let s1 := arpGateClose P { s with arpAcc := s.arpAcc - s.arpLen }
    arpFire P (startLength P { s1 with arpStep := s1.arpStep + 1 })
  else s

/-- Has the present note sounded its part of the step? (R347 point 2) -/
def gateOver (s : Engine N Post) : Bool :=
  letI := P.num
  P.num.le (numOf P (arpGateFraction P s.active) * s.arpLen) s.arpAcc

/-- Gate end, point 2 of R347. -/
def arpGateEnd (s : Engine N Post) : Engine N Post :=
  if s.arpGateOpen && decide (arpGateFraction P s.active < 1) && gateOver P s then arpGateClose P s else s

/-- `ARP_TICK()` (R347). -/
def arpTick (s : Engine N Post) : Engine N Post :=
  letI := P.num
  if s.arpRun then
    let s1 := arpGateEnd P (arpStepEnd P s)
    { s1 with arpAcc := s1.arpAcc + numOf P 1 }
  else s

/-! ## Key events (R341, R342) -/

/-- The sequencer's start: run from step 0 and fire it (R341). -/
def arpStart (s : Engine N Post) : Engine N Post :=
  arpFire P (startLength P
    { s with arpRun := true, arpAcc := numOf P 0, arpStep := 0, arpIdx := 0, arpDir := .plus })

/-- `ARP_KEY_DOWN(n, vel)` (R341); the velocity is not used (R360). -/
def arpKeyDown (s : Engine N Post) (n : Note) : Engine N Post :=
  if s.held.contains n || decide (s.held.length = P.heldMax) then s
  else
    let s1 := { s with held := s.held ++ [n] }
    if s.held.isEmpty then arpStart P s1 else s1

/-- `ARP_KEY_UP(n)` (R342). -/
def arpKeyUp (s : Engine N Post) (n : Note) : Engine N Post :=
  if s.held.contains n then
    let s1 := { s with held := s.held.filter fun x => x != n }
    if s1.held.isEmpty then arpStop P s1 else s1
  else s

/-! ## Disable and clear (R359, R363) -/

/-- `ARP_DISABLE()` (R359). -/
def arpDisable (s : Engine N Post) : Engine N Post := { arpStop P s with held := [] }

/-- `ARP_CLEAR()` (R363). -/
def arpClear (s : Engine N Post) : Engine N Post := { s with held := [], arpRun := false, arpGateOpen := false }

end Sys2Proof.Machine
end

