-- ==== Sys2Proof/Machine/Commands.lean ====
section
/-! DEFINITION. The command records (45_protocol.md R305, R310-R318; 30_encoding.md R115): the meaning of each record type,
and APPLY. The effect of each type has a name of its own, which both the instruction's meaning and APPLY call. -/

namespace Sys2Proof.Machine

variable {N Post : Type} (P : Config.Params N Post)

/-- The line a LINE field names; 0 and 3 name none (30_encoding.md R110, R115). -/
def lineOfCode (line : BitVec 2) : Option Line :=
  if line = 1#2 then some .one else if line = 2#2 then some .two else none

/-- Store a word in a register of ACTIVE. -/
def writeActive (s : Engine N Post) (r : Reg) (w : ParamWord) : Engine N Post := { s with active := bankWrite P.pool s.active r w }

/-- Set stage INDEX of envelope (t, line) to (RATE, LEVEL), each clamped; a bad LINE or INDEX is ignored (R305 case 0). -/
def applyStage (t : EnvType) (line : BitVec 2) (index : BitVec 4) (rate level : Code) (s : Engine N Post) : Engine N Post :=
  match lineOfCode line with
  | none => s
  | some l =>
    if index.toNat ≤ 7 then
      writeActive P s (.envStage t l (Fin.ofNat 8 index.toNat)) (capUq15 level ++ capUq15 rate)
    else s

/-- Set the sustain point of envelope (t, line) to INDEX, 0xF for none; a bad LINE or INDEX is ignored (R305 case 1). -/
def applySustain (t : EnvType) (line : BitVec 2) (index : BitVec 4) (s : Engine N Post) : Engine N Post :=
  match lineOfCode line with
  | none => s
  | some l =>
    if index.toNat ≤ 7 ∨ index = 15#4 then writeActive P s (.envSustain t l) (0#28 ++ index) else s

/-- Set the end point of envelope (t, line) to INDEX; a bad LINE or INDEX is ignored (R305 case 2). -/
def applyEnd (t : EnvType) (line : BitVec 2) (index : BitVec 4) (s : Engine N Post) : Engine N Post :=
  match lineOfCode line with
  | none => s
  | some l => if index.toNat ≤ 7 then writeActive P s (.envEnd t l) (0#28 ++ index) else s

/-- DCW_STAGE (R310). -/
def applyDcwStage (line : BitVec 2) (index : BitVec 4) (rate level : Code) (s : Engine N Post) : Engine N Post :=
  applyStage P .dcw line index rate level s
/-- DCA_STAGE (R311). -/
def applyDcaStage (line : BitVec 2) (index : BitVec 4) (rate level : Code) (s : Engine N Post) : Engine N Post :=
  applyStage P .dca line index rate level s
/-- PITCH_STAGE (R312). -/
def applyPitchStage (line : BitVec 2) (index : BitVec 4) (rate level : Code) (s : Engine N Post) : Engine N Post :=
  applyStage P .pitch line index rate level s
/-- DCW_SUSTAIN (R313). -/
def applyDcwSustain (line : BitVec 2) (index : BitVec 4) (s : Engine N Post) : Engine N Post := applySustain P .dcw line index s
/-- DCA_SUSTAIN (R314). -/
def applyDcaSustain (line : BitVec 2) (index : BitVec 4) (s : Engine N Post) : Engine N Post := applySustain P .dca line index s
/-- PITCH_SUSTAIN (R315). -/
def applyPitchSustain (line : BitVec 2) (index : BitVec 4) (s : Engine N Post) : Engine N Post := applySustain P .pitch line index s
/-- DCW_END (R316). -/
def applyDcwEnd (line : BitVec 2) (index : BitVec 4) (s : Engine N Post) : Engine N Post := applyEnd P .dcw line index s
/-- DCA_END (R317). -/
def applyDcaEnd (line : BitVec 2) (index : BitVec 4) (s : Engine N Post) : Engine N Post := applyEnd P .dca line index s
/-- PITCH_END (R318). -/
def applyPitchEnd (line : BitVec 2) (index : BitVec 4) (s : Engine N Post) : Engine N Post := applyEnd P .pitch line index s
/-- TYPE 9 to 15: the record is ignored (30_encoding.md R115). -/
def applyReserved (_type : Nat) (s : Engine N Post) : Engine N Post := s

/-- `APPLY(rec)` (R305). -/
def applyRecord (r : Rec) (s : Engine N Post) : Engine N Post :=
  match (Rec.type r).toNat with
  | 0 => applyDcwStage P (Rec.line r) (Rec.index r) (Rec.rate r) (Rec.level r) s
  | 1 => applyDcaStage P (Rec.line r) (Rec.index r) (Rec.rate r) (Rec.level r) s
  | 2 => applyPitchStage P (Rec.line r) (Rec.index r) (Rec.rate r) (Rec.level r) s
  | 3 => applyDcwSustain P (Rec.line r) (Rec.index r) s
  | 4 => applyDcaSustain P (Rec.line r) (Rec.index r) s
  | 5 => applyPitchSustain P (Rec.line r) (Rec.index r) s
  | 6 => applyDcwEnd P (Rec.line r) (Rec.index r) s
  | 7 => applyDcaEnd P (Rec.line r) (Rec.index r) s
  | 8 => applyPitchEnd P (Rec.line r) (Rec.index r) s
  | n => applyReserved n s

/-! ## The meanings of the record types -/

/-- DCW_STAGE as an instruction (R310). -/
def execDcwStage (line : BitVec 2) (index : BitVec 4) (rate level : Code) (s : State) :
    Host.Outcome State Fault Refusal := .next (s.onEngine (applyDcwStage ref line index rate level))
/-- DCA_STAGE as an instruction (R311). -/
def execDcaStage (line : BitVec 2) (index : BitVec 4) (rate level : Code) (s : State) :
    Host.Outcome State Fault Refusal := .next (s.onEngine (applyDcaStage ref line index rate level))
/-- PITCH_STAGE as an instruction (R312). -/
def execPitchStage (line : BitVec 2) (index : BitVec 4) (rate level : Code) (s : State) :
    Host.Outcome State Fault Refusal := .next (s.onEngine (applyPitchStage ref line index rate level))
/-- DCW_SUSTAIN as an instruction (R313). -/
def execDcwSustain (line : BitVec 2) (index : BitVec 4) (s : State) : Host.Outcome State Fault Refusal :=
  .next (s.onEngine (applyDcwSustain ref line index))
/-- DCA_SUSTAIN as an instruction (R314). -/
def execDcaSustain (line : BitVec 2) (index : BitVec 4) (s : State) : Host.Outcome State Fault Refusal :=
  .next (s.onEngine (applyDcaSustain ref line index))
/-- PITCH_SUSTAIN as an instruction (R315). -/
def execPitchSustain (line : BitVec 2) (index : BitVec 4) (s : State) : Host.Outcome State Fault Refusal :=
  .next (s.onEngine (applyPitchSustain ref line index))
/-- DCW_END as an instruction (R316). -/
def execDcwEnd (line : BitVec 2) (index : BitVec 4) (s : State) : Host.Outcome State Fault Refusal :=
  .next (s.onEngine (applyDcwEnd ref line index))
/-- DCA_END as an instruction (R317). -/
def execDcaEnd (line : BitVec 2) (index : BitVec 4) (s : State) : Host.Outcome State Fault Refusal :=
  .next (s.onEngine (applyDcaEnd ref line index))
/-- PITCH_END as an instruction (R318). -/
def execPitchEnd (line : BitVec 2) (index : BitVec 4) (s : State) : Host.Outcome State Fault Refusal :=
  .next (s.onEngine (applyPitchEnd ref line index))
/-- TYPE 9, ignored (30_encoding.md R115). -/
def execCmdReserved9 (s : State) : Host.Outcome State Fault Refusal := .next (s.onEngine (applyReserved 9))
/-- TYPE 10, ignored (30_encoding.md R115). -/
def execCmdReserved10 (s : State) : Host.Outcome State Fault Refusal := .next (s.onEngine (applyReserved 10))
/-- TYPE 11, ignored (30_encoding.md R115). -/
def execCmdReserved11 (s : State) : Host.Outcome State Fault Refusal := .next (s.onEngine (applyReserved 11))
/-- TYPE 12, ignored (30_encoding.md R115). -/
def execCmdReserved12 (s : State) : Host.Outcome State Fault Refusal := .next (s.onEngine (applyReserved 12))
/-- TYPE 13, ignored (30_encoding.md R115). -/
def execCmdReserved13 (s : State) : Host.Outcome State Fault Refusal := .next (s.onEngine (applyReserved 13))
/-- TYPE 14, ignored (30_encoding.md R115). -/
def execCmdReserved14 (s : State) : Host.Outcome State Fault Refusal := .next (s.onEngine (applyReserved 14))
/-- TYPE 15, ignored (30_encoding.md R115). -/
def execCmdReserved15 (s : State) : Host.Outcome State Fault Refusal := .next (s.onEngine (applyReserved 15))

end Sys2Proof.Machine
end

