-- ==== Sys2Proof/Machine/Ops.lean ====
section
/-! DEFINITION. The shared operations over the banks and the FIFO (45_protocol.md R300-R304) and over the sample clock
(47_sample_clock.md R391-R393). There is no exception to take and none to return from (60_exceptions.md R410, R415, R416). -/

namespace Sys2Proof.Machine

variable {N Post : Type} (P : Config.Params N Post)

/-! ## Host side -/

/-- The write of PARAM_WRITE: SHADOW at a mapped address takes the legalised word, an unmapped address nothing (R300). -/
def writeShadow (a : ParamAddr) (d : ParamWord) (s : Engine N Post) : Engine N Post :=
  match regAt a.toNat with
  | none => s
  | some r => { s with shadow := bankWrite P.pool s.shadow r (legal P.pool r (bankRead P.pool s.shadow r) d) }

/-- The copy of SNAP_PUBLISH (R301). -/
def publish (s : Engine N Post) : Engine N Post := { s with pending := s.shadow, pendingValid := true }

/-- The append of CMD_PUSH, dropped when the FIFO is full (R302). -/
def pushRecord (r : Rec) (s : Engine N Post) : Engine N Post :=
  if s.cmdq.length < P.cmdqCap then { s with cmdq := s.cmdq ++ [r] } else s

/-! ## Block boundary -/

/-- `INSTALL()` (R303). -/
def install (s : Engine N Post) : Engine N Post :=
  if s.pendingValid then
    let s1 := { s with active := s.pending, pendingValid := false }
    if arpOn P s.active && !arpOn P s.pending then arpDisable P s1 else s1
  else s

/-- `DRAIN()` (R304): every record of CMDQ, oldest first, is removed and applied. No record is pushed meanwhile. -/
def drain (s : Engine N Post) : Engine N Post := s.cmdq.foldl (fun s r => applyRecord P r s) { s with cmdq := [] }

/-- `ARP_BASE <- BASE()` (46_arpeggiator.md R353). -/
def updateBase (s : Engine N Post) : Engine N Post := { s with arpBase := baseLength P s.active }

/-- `BLOCK_BOUNDARY()` (R392). -/
def blockBoundary (s : Engine N Post) : Engine N Post := updateBase P (drain P (install P s))

/-! ## Sample step -/

/-- Does the next sample step begin a block? (R391 step 1) -/
def atBoundary (s : Engine N Post) : Bool := decide (s.time.toNat % P.blockLen = 0)

/-- Steps 3 and 4 of a sample step: every slot renders, the outputs are summed into OUT_L and OUT_R (R391, R393). -/
def renderVoices (s : Engine N Post) : Engine N Post :=
  let rendered := s.voices.map (voiceRender P s)
  let sum := numSum P (rendered.map Prod.fst)
  { s with voices := rendered.map Prod.snd, outL := sum, outR := sum }

/-- Step 5 of a sample step (R391, R395). -/
def advanceTime (s : Engine N Post) : Engine N Post := { s with time := s.time + 1 }

/-- `SAMPLE_STEP()` (R391). -/
def sampleStep (s : Engine N Post) : Engine N Post :=
  advanceTime (renderVoices P (arpTick P (if atBoundary P s then blockBoundary P s else s)))

/-- `n` sample steps in a row (R390). -/
def sampleSteps : Nat → Engine N Post → Engine N Post
  | 0, s => s
  | n + 1, s => sampleSteps n (sampleStep P s)

/-- The audio out of `n` sample steps: the pair (OUT_L, OUT_R) after each (R393; 10_state.md R28). -/
def sampleOutputs : Nat → Engine N Post → List (N × N)
  | 0, _ => []
  | n + 1, s => ((sampleStep P s).outL, (sampleStep P s).outR) :: sampleOutputs n (sampleStep P s)

end Sys2Proof.Machine
end

