-- ==== Sys2Proof/Machine/Clock.lean ====
section
/-! DEFINITION. The meanings of the clock words: TICK (47_sample_clock.md R390), NOP (R394) and the reserved opcodes
(30_encoding.md R113). -/

namespace Sys2Proof.Machine

/-- A word that changes no state (R394). -/
def noOperation {N Post : Type} (s : Engine N Post) : Engine N Post := s

/-- TICK (R390). -/
def execTick (count : BitVec 32) (s : State) : Host.Outcome State Fault Refusal :=
  .next (s.onEngine (sampleSteps ref count.toNat))

/-- NOP (R394). -/
def execNop (s : State) : Host.Outcome State Fault Refusal := .next (s.onEngine noOperation)

/-- OP 0x7 executes as NOP (30_encoding.md R113). -/
def execReserved7 (s : State) : Host.Outcome State Fault Refusal := .next (s.onEngine noOperation)

/-- OP 0xC executes as NOP (30_encoding.md R113). -/
def execReservedC (s : State) : Host.Outcome State Fault Refusal := .next (s.onEngine noOperation)

/-- OP 0xD executes as NOP (30_encoding.md R113). -/
def execReservedD (s : State) : Host.Outcome State Fault Refusal := .next (s.onEngine noOperation)

/-- OP 0xE executes as NOP (30_encoding.md R113). -/
def execReservedE (s : State) : Host.Outcome State Fault Refusal := .next (s.onEngine noOperation)

end Sys2Proof.Machine
end

