-- ==== Sys2Proof/Machine/Events.lean ====
section
/-! DEFINITION. The note events and setters (44_events.md R260, R261, R268, R270-R273): each effect for any parameters, then
the meaning of its word, which is that effect on the reference instance. -/

namespace Sys2Proof.Machine

variable {N Post : Type} (P : Config.Params N Post)

/-! ## The effects -/

/-- NOTE_ON: a key press goes to the arpeggiator or to the allocator (R260; 46_arpeggiator.md R340). -/
def keyDown (n : Note) (vel : Code) (s : Engine N Post) : Engine N Post :=
  if arpOn P s.active then arpKeyDown P s n else allocNoteOn P s n (numOf P (uq15 vel))

/-- NOTE_OFF: a key release goes to the arpeggiator or to the allocator (R261; 46_arpeggiator.md R340). -/
def keyUp (n : Note) (s : Engine N Post) : Engine N Post :=
  if arpOn P s.active then arpKeyUp P s n else allocNoteOff P s n

/-- ALL_NOTES_OFF (R268): the arpeggiator is cleared and every Active voice released, not through the allocator. -/
def allNotesOff (s : Engine N Post) : Engine N Post := releaseActive P (arpClear s)

/-- SET_MODWHEEL (R270). -/
def latchModwheel (val : Code) (s : Engine N Post) : Engine N Post := { s with modWheel := numOf P (uq15 val) }

/-- SET_AFTERTOUCH (R271). -/
def latchAftertouch (val : Code) (s : Engine N Post) : Engine N Post := { s with aftertouch := numOf P (uq15 val) }

/-- SET_PITCHBEND (R272). -/
def latchPitchbend (val : Code) (s : Engine N Post) : Engine N Post := { s with pitchBend := numOf P (sq78 val) }

/-- SET_LFO (R273). -/
def latchLfo (val : Code) (s : Engine N Post) : Engine N Post := { s with lfoIn := numOf P (sq114 val) }

/-! ## The meanings -/

/-- NOTE_ON (R260). -/
def execNoteOn (note : Note) (vel : Code) (s : State) : Host.Outcome State Fault Refusal :=
  .next (s.onEngine (keyDown ref note vel))

/-- NOTE_OFF (R261). -/
def execNoteOff (note : Note) (s : State) : Host.Outcome State Fault Refusal := .next (s.onEngine (keyUp ref note))

/-- ALL_NOTES_OFF (R268). -/
def execAllNotesOff (s : State) : Host.Outcome State Fault Refusal := .next (s.onEngine (allNotesOff ref))

/-- SET_MODWHEEL (R270). -/
def execSetModwheel (val : Code) (s : State) : Host.Outcome State Fault Refusal :=
  .next (s.onEngine (latchModwheel ref val))

/-- SET_AFTERTOUCH (R271). -/
def execSetAftertouch (val : Code) (s : State) : Host.Outcome State Fault Refusal :=
  .next (s.onEngine (latchAftertouch ref val))

/-- SET_PITCHBEND (R272). -/
def execSetPitchbend (val : Code) (s : State) : Host.Outcome State Fault Refusal :=
  .next (s.onEngine (latchPitchbend ref val))

/-- SET_LFO (R273). -/
def execSetLfo (val : Code) (s : State) : Host.Outcome State Fault Refusal := .next (s.onEngine (latchLfo ref val))

end Sys2Proof.Machine
end

