-- ==== Sys2Proof/Machine/Protocol.lean ====
section
/-! DEFINITION. The meanings of the host's operation words (45_protocol.md R300-R302). -/

namespace Sys2Proof.Machine

/-- PARAM_WRITE (R300). -/
def execParamWrite (addr : ParamAddr) (data : ParamWord) (s : State) : Host.Outcome State Fault Refusal :=
  .next (s.onEngine (writeShadow ref addr data))

/-- SNAP_PUBLISH (R301). -/
def execSnapPublish (s : State) : Host.Outcome State Fault Refusal := .next (s.onEngine publish)

/-- CMD_PUSH (R302). -/
def execCmdPush (record : Rec) (s : State) : Host.Outcome State Fault Refusal :=
  .next (s.onEngine (pushRecord ref record))

end Sys2Proof.Machine
end

