-- ==== Sys2Proof/Machine/Dispatch.lean ====
section
/-! DEFINITION. The meaning of every instruction, one arm per constructor (30_encoding.md R100, R111). -/

namespace Sys2Proof.Machine

def exec (i : Instr) (s : State) : Host.Outcome State Fault Refusal :=
  match i with
  | .nop => Sys2Proof.Machine.execNop s
  | .noteOn note vel => Sys2Proof.Machine.execNoteOn note vel s
  | .noteOff note => Sys2Proof.Machine.execNoteOff note s
  | .allNotesOff => Sys2Proof.Machine.execAllNotesOff s
  | .setModwheel val => Sys2Proof.Machine.execSetModwheel val s
  | .setAftertouch val => Sys2Proof.Machine.execSetAftertouch val s
  | .setPitchbend val => Sys2Proof.Machine.execSetPitchbend val s
  | .reserved7 => Sys2Proof.Machine.execReserved7 s
  | .paramWrite addr data => Sys2Proof.Machine.execParamWrite addr data s
  | .snapPublish => Sys2Proof.Machine.execSnapPublish s
  | .cmdPush record => Sys2Proof.Machine.execCmdPush record s
  | .setLfo val => Sys2Proof.Machine.execSetLfo val s
  | .reservedC => Sys2Proof.Machine.execReservedC s
  | .reservedD => Sys2Proof.Machine.execReservedD s
  | .reservedE => Sys2Proof.Machine.execReservedE s
  | .tick count => Sys2Proof.Machine.execTick count s
  | .dcwStage line index rate level => Sys2Proof.Machine.execDcwStage line index rate level s
  | .dcaStage line index rate level => Sys2Proof.Machine.execDcaStage line index rate level s
  | .pitchStage line index rate level => Sys2Proof.Machine.execPitchStage line index rate level s
  | .dcwSustain line index => Sys2Proof.Machine.execDcwSustain line index s
  | .dcaSustain line index => Sys2Proof.Machine.execDcaSustain line index s
  | .pitchSustain line index => Sys2Proof.Machine.execPitchSustain line index s
  | .dcwEnd line index => Sys2Proof.Machine.execDcwEnd line index s
  | .dcaEnd line index => Sys2Proof.Machine.execDcaEnd line index s
  | .pitchEnd line index => Sys2Proof.Machine.execPitchEnd line index s
  | .cmdReserved9 => Sys2Proof.Machine.execCmdReserved9 s
  | .cmdReserved10 => Sys2Proof.Machine.execCmdReserved10 s
  | .cmdReserved11 => Sys2Proof.Machine.execCmdReserved11 s
  | .cmdReserved12 => Sys2Proof.Machine.execCmdReserved12 s
  | .cmdReserved13 => Sys2Proof.Machine.execCmdReserved13 s
  | .cmdReserved14 => Sys2Proof.Machine.execCmdReserved14 s
  | .cmdReserved15 => Sys2Proof.Machine.execCmdReserved15 s

end Sys2Proof.Machine
end

