-- ==== Sys2Proof/Machine/Step.lean ====
section
/-! DEFINITION. One step: the next instruction is taken and runs (00_scope.md R4, 10_state.md R55, 20_memory.md R86, R88). -/

namespace Sys2Proof.Machine

/-- One step: the next item of what the driver delivers is taken and executed; with nothing left to deliver nothing happens.
Log entries 1 and 2. -/
def step (s : State) : Host.Outcome State Fault Refusal :=
  match s.stimulus with
  | [] => .next s
  | e :: rest => exec (decode e) { s with stimulus := rest }

/-- An opcode-table row's bits as the driver delivers them. -/
def tableItem (nbits w : Nat) : Encoded :=
  let bits := w % 2 ^ nbits
  if isRecordWidth nbits then .cmd (BitVec.ofNat 48 bits) else .op (BitVec.ofNat 64 bits)

/-- `s` with the instruction of an opcode-table row as the one that the next step runs: at the head of what the driver
delivers. -/
def State.withFetchWord (s : State) (nbits w : Nat) : State := { s with stimulus := tableItem nbits w :: s.stimulus }

end Sys2Proof.Machine
end

