-- ==== Sys2Proof/Machine/Assembler.lean ====
section
/-! DEFINITION. The stimulus assembler: machine forms and pseudo-instructions (30_encoding.md R118, R119), and the text of a
source line. It runs on the host; no engine rule calls it. Points R118 leaves open: log entry 11. -/

namespace Sys2Proof.Machine

variable {N Post : Type} (P : Config.Params N Post)

/-- A number as a source line writes it (R118): an integer is the raw field code, one with a decimal point a fraction,
`r<i>` the rate code of index i (R119). -/
inductive Operand where
  | code (n : Nat)
  | frac (q : ℚ)
  | rate (i : Nat)
deriving DecidableEq, Repr

/-- The code of an operand in a 16-bit format of `scale` steps per unit (R118). DESIGN CHOICE, log entry 11: `r<i>`, which R119
gives as a rate operand, is the rate code of i also where the operand is no rate (a velocity, a level, a setter's value); and a
code outside the field is taken modulo 2^16, be it too large or negative (-0.5 in UQ1.15 is 0xC000, which decodes to 1). -/
def operandCode (scale : ℚ) : Operand → Code
  | .code n => BitVec.ofNat 16 n
  | .frac q => BitVec.ofInt 16 (rhu (q * scale))
  | .rate i => rateCode i

/-- The number an operand of `adsr` stands for (R119): the times A, D and R in milliseconds, S a fraction. DESIGN CHOICE, log
entry 11: R118 calls an integer operand the raw field code, but these four are no fields of a word, so an integer is taken as
the plain number it writes (S = 0x4000 is the number 16384, which the adapter clamps to 1), and `r<i>` as the number i. -/
def operandNum : Operand → ℚ
  | .code n => (n : ℚ)
  | .frac q => q
  | .rate i => (i : ℚ)

/-- A source line: the machine forms of R118, then the pseudo-instructions of R119. -/
inductive AsmLine where
  | nop
  | noteon (n : Nat) (vel : Operand)
  | noteoff (n : Nat)
  | allnotesoff
  | modwheel (v : Operand)
  | aftertouch (v : Operand)
  | pitchbend (semis : Operand)
  | lfo (v : Operand)
  | pwrite (addr data : Nat)
  | publish
  | cmd (type line : Nat) (index : Option Nat) (rate level : Operand)
  | tick (count : Nat)
  | stage (t : EnvType) (l : Line) (s : Nat) (rate level : Operand)
  | sustain (t : EnvType) (l : Line) (s : Option Nat)
  | endAt (t : EnvType) (l : Line) (s : Nat)
  | adsr (t : EnvType) (l : Line) (a d s r : Operand)
  | note (n : Nat) (vel : Operand) (len : Nat)
  | toboundary
deriving DecidableEq, Repr

/-- A PARAM_WRITE of an address and a word. -/
def pwriteInstr (addr : Nat) (data : ParamWord) : Instr := .paramWrite (BitVec.ofNat 10 addr) data

/-- The TICK words of a count: full words while it does not fit one, then the remainder (R119). -/
def tickInstrs (count : Nat) : List Instr :=
  if count < 2 ^ 32 then [.tick (BitVec.ofNat 32 count)]
  else List.replicate (count / (2 ^ 32 - 1)) (.tick 0xFFFFFFFF#32) ++ [.tick (BitVec.ofNat 32 (count % (2 ^ 32 - 1)))]

/-- The INDEX field of a `sustain` or `cmd` index, `none` meaning 0xF (R118). -/
def indexCode : Option Nat → Nat
  | some s => s
  | none => 15

/-- The eight stage words of an envelope block, from stage s on. -/
def stageWrites (base : Nat) : List ParamWord → List Instr
  | [] => []
  | w :: ws => pwriteInstr base w :: stageWrites (base + 1) ws

/-- The number of samples from `time` to the next multiple of BLOCK_LEN, 0 at a multiple. -/
def toBoundary (time : Nat) : Nat := (P.blockLen - time % P.blockLen) % P.blockLen

/-- The machine forms of a source line, and the assembler-known TIME after it (R118, R119). -/
def expand (time : Nat) : AsmLine → List Instr × Nat
  | .nop => ([.nop], time)
  | .noteon n vel => ([.noteOn (BitVec.ofNat 7 n) (operandCode 32768 vel)], time)
  | .noteoff n => ([.noteOff (BitVec.ofNat 7 n)], time)
  | .allnotesoff => ([.allNotesOff], time)
  | .modwheel v => ([.setModwheel (operandCode 32768 v)], time)
  | .aftertouch v => ([.setAftertouch (operandCode 32768 v)], time)
  | .pitchbend v => ([.setPitchbend (operandCode 256 v)], time)
  | .lfo v => ([.setLfo (operandCode 16384 v)], time)
  | .pwrite addr data => ([pwriteInstr addr (BitVec.ofNat 32 data)], time)
  | .publish => ([.snapPublish], time)
  | .cmd type line index rate level =>
      ([.cmdPush (recordWord (BitVec.ofNat 4 type) (BitVec.ofNat 2 line) (BitVec.ofNat 4 (indexCode index))
        (operandCode 32768 rate) (operandCode 32768 level))], time)
  | .tick count => (tickInstrs count, time + count)
  | .stage t l s rate level =>
      ([pwriteInstr (envBase t l + s) (operandCode 32768 level ++ operandCode 32768 rate)], time)
  | .sustain t l s => ([pwriteInstr (envBase t l + 8) (BitVec.ofNat 32 (indexCode s))], time)
  | .endAt t l s => ([pwriteInstr (envBase t l + 9) (BitVec.ofNat 32 s)], time)
  | .adsr t l a d s r =>
      let block := Sys2Proof.Machine.adsr P (numOf P (operandNum a)) (numOf P (operandNum d)) (numOf P (operandNum s))
        (numOf P (operandNum r))
      (stageWrites (envBase t l) block.stages
        ++ [pwriteInstr (envBase t l + 8) (BitVec.ofNat 32 block.sustain),
            pwriteInstr (envBase t l + 9) (BitVec.ofNat 32 block.endStage)], time)
  | .note n vel len =>
      (.noteOn (BitVec.ofNat 7 n) (operandCode 32768 vel) :: (tickInstrs len ++ [.noteOff (BitVec.ofNat 7 n)]),
        time + len)
  | .toboundary => (tickInstrs (toBoundary P time), time + toBoundary P time)

/-- The instructions of a whole source file, TIME known from reset on. -/
def expandAll : Nat → List AsmLine → List Instr
  | _, [] => []
  | time, line :: rest => (expand P time line).1 ++ expandAll (expand P time line).2 rest

/-- The operation word of an assembled instruction; a record has none. -/
def assembledWord (i : Instr) : Option OpWord :=
  match encode i with
  | .op w => some w
  | .cmd _ => none

/-- The operation words of a source file. -/
def assemble (lines : List AsmLine) : List OpWord := (expandAll P 0 lines).filterMap assembledWord

/-! ## The text of a line -/

/-- A line without its comment, in lower case ("A `;` starts a comment. Mnemonics are case-insensitive", R118). DESIGN CHOICE, log
entry 11: the operands are in lower case too, so that `NONE`, `R99`, `dca1` and `0X1F` are accepted; R118 leaves their case open. -/
def lineText (line : List Char) : List Char := (line.takeWhile fun c => c != ';').map Char.toLower

/-- Does a character separate the words of a line? DESIGN CHOICE, log entry 11. -/
def isSeparator (c : Char) : Bool := c == ' ' || c == ',' || c == '\t' || c == '\r'

/-- The words of a line; the second argument is the word read so far, its last character first. -/
def lineWords : List Char → List Char → List (List Char)
  | [], [] => []
  | [], word => [word.reverse]
  | c :: cs, word =>
    if isSeparator c then (match word with
      | [] => lineWords cs []
      | w => w.reverse :: lineWords cs [])
    else lineWords cs (c :: word)

/-- The value of a digit in a base up to 16. -/
def digitValue (base : Nat) (c : Char) : Option Nat :=
  let n := c.toNat
  let v := if 48 ≤ n ∧ n ≤ 57 then n - 48 else if 97 ≤ n ∧ n ≤ 102 then n - 87 else base
  if v < base then some v else none

/-- The natural number of some digits, none of them meaning no number. -/
def digitsValue (base : Nat) : List Char → Nat → Option Nat
  | [], acc => some acc
  | c :: cs, acc =>
    match digitValue base c with
    | some v => digitsValue base cs (acc * base + v)
    | none => none

/-- A non-empty run of digits. -/
def naturalOf (base : Nat) (cs : List Char) : Option Nat := if cs.isEmpty then none else digitsValue base cs 0

/-- A natural number: hexadecimal after `0x`, else decimal (R118). DESIGN CHOICE, log entry 11: at least one digit, leading zeros
allowed, no sign and no separator within the digits. -/
def parseNat : List Char → Option Nat
  | '0' :: 'x' :: cs => naturalOf 16 cs
  | cs => naturalOf 10 cs

/-- A decimal fraction `a.b`. DESIGN CHOICE, log entry 11: digits stand on both sides of the point, so `.5` and `5.` are no numbers,
and there is no exponent; R118 gives the example `0.5` alone. -/
def parseFraction (cs : List Char) : Option ℚ :=
  match naturalOf 10 (cs.takeWhile fun c => c != '.'), (cs.dropWhile fun c => c != '.') with
  | some a, '.' :: frac =>
    match naturalOf 10 frac with
    | some b => some ((a : ℚ) + (b : ℚ) / ((10 ^ frac.length : Nat) : ℚ))
    | none => none
  | _, _ => none

/-- An operand of R118 and R119. DESIGN CHOICE, log entry 11: `r<i>` is accepted wherever a fraction may stand, though R119
gives it as a rate operand only. -/
def parseOperand : List Char → Option Operand
  | 'r' :: cs =>
    match naturalOf 10 cs with
    | some i => if i ≤ 99 then some (.rate i) else none
    | none => none
  | '-' :: cs =>
    match parseFraction cs with
    | some q => some (.frac (-q))
    | none => none
  | cs =>
    match parseNat cs with
    | some n => some (.code n)
    | none =>
      match parseFraction cs with
      | some q => some (.frac q)
      | none => none

/-- An index, or the word `none`. -/
def parseIndex (cs : List Char) : Option (Option Nat) :=
  if cs == "none".toList then some none
  else match parseNat cs with
    | some n => some (some n)
    | none => none

/-- `<T><l>`: an envelope type and a line. -/
def parseEnvelope (cs : List Char) : Option (EnvType × Line) :=
  if cs == "dcw1".toList then some (.dcw, .one)
  else if cs == "dcw2".toList then some (.dcw, .two)
  else if cs == "dca1".toList then some (.dca, .one)
  else if cs == "dca2".toList then some (.dca, .two)
  else if cs == "pitch1".toList then some (.pitch, .one)
  else if cs == "pitch2".toList then some (.pitch, .two)
  else none

/-- The TYPE of a record mnemonic (R111). -/
def parseType (cs : List Char) : Option Nat :=
  if cs == "dcw_stage".toList then some 0
  else if cs == "dca_stage".toList then some 1
  else if cs == "pitch_stage".toList then some 2
  else if cs == "dcw_sustain".toList then some 3
  else if cs == "dca_sustain".toList then some 4
  else if cs == "pitch_sustain".toList then some 5
  else if cs == "dcw_end".toList then some 6
  else if cs == "dca_end".toList then some 7
  else if cs == "pitch_end".toList then some 8
  else none

/-- The line of a mnemonic without operands. -/
def parseBare (m : List Char) : Option AsmLine :=
  if m == "nop".toList then some .nop
  else if m == "allnotesoff".toList then some .allnotesoff
  else if m == "publish".toList then some .publish
  else if m == "toboundary".toList then some .toboundary
  else none

/-- The line of a mnemonic with one operand. -/
def parseOne (m a : List Char) : Option AsmLine :=
  if m == "noteoff".toList then (parseNat a).map .noteoff
  else if m == "tick".toList then (parseNat a).map .tick
  else if m == "modwheel".toList then (parseOperand a).map .modwheel
  else if m == "aftertouch".toList then (parseOperand a).map .aftertouch
  else if m == "pitchbend".toList then (parseOperand a).map .pitchbend
  else if m == "lfo".toList then (parseOperand a).map .lfo
  else none

/-- The line of a mnemonic with two operands. DESIGN CHOICE, log entry 11: the address and the data of `pwrite` are integers, so
a fraction or `r<i>` there is no form; R118 names a UQ8.8 encoding of fractions but does not say where one may stand. -/
def parseTwo (m a b : List Char) : Option AsmLine :=
  if m == "noteon".toList then
    (parseNat a).bind fun n => (parseOperand b).map fun v => .noteon n v
  else if m == "pwrite".toList then
    (parseNat a).bind fun n => (parseNat b).map fun d => .pwrite n d
  else if m == "sustain".toList then
    (parseEnvelope a).bind fun e => (parseIndex b).map fun s => .sustain e.1 e.2 s
  else if m == "end".toList then
    (parseEnvelope a).bind fun e => (parseNat b).map fun s => .endAt e.1 e.2 s
  else none

/-- A source line's words as a line (R118, R119); none where they are no form of the assembler. -/
def parseWords : List (List Char) → Option AsmLine
  | [m] => parseBare m
  | [m, a] => parseOne m a
  | [m, a, b] => parseTwo m a b
  | [m, a, b, c] =>
    if m == "note".toList then
      (parseNat a).bind fun n => (parseOperand b).bind fun v => (parseNat c).map fun len => .note n v len
    else none
  | [m, a, b, c, d] =>
    if m == "stage".toList then
      (parseEnvelope a).bind fun e => (parseNat b).bind fun s => (parseOperand c).bind fun r =>
        (parseOperand d).map fun v => .stage e.1 e.2 s r v
    else none
  | [m, a, b, c, d, x] =>
    if m == "cmd".toList then
      (parseType a).bind fun t => (parseNat b).bind fun l => (parseIndex c).bind fun i =>
        (parseOperand d).bind fun r => (parseOperand x).map fun v => .cmd t l i r v
    else if m == "adsr".toList then
      (parseEnvelope a).bind fun e => (parseOperand b).bind fun at' => (parseOperand c).bind fun dc =>
        (parseOperand d).bind fun su => (parseOperand x).map fun re => .adsr e.1 e.2 at' dc su re
    else none
  | _ => none

/-- One source line of text: no line where it holds nothing but a comment; an error where it is no form of the assembler. -/
def parseLine (line : List Char) : Except Unit (Option AsmLine) :=
  match lineWords (lineText line) [] with
  | [] => .ok none
  | ws =>
    match parseWords ws with
    | some l => .ok (some l)
    | none => .error ()

/-- The operation words of a source text, one line after the other. -/
def assembleText (lines : List (List Char)) : Except Unit (List OpWord) :=
  match lines.mapM parseLine with
  | .ok parsed => .ok (assemble P (parsed.filterMap id))
  | .error e => .error e

end Sys2Proof.Machine
end

