-- ==== Sys2Proof/Machine/Engine.lean ====
section
/-! DEFINITION. The effect of every instruction for any parameters of 00_scope.md R6: "a run with different parameters is a
different instance" (70_reset_and_hazards.md R432). `exec` is this on the reference instance. -/

namespace Sys2Proof.Machine

variable {N Post : Type} (P : Config.Params N Post)

/-- The effect of an instruction on the engine. -/
def engineExec (i : Instr) : Engine N Post → Engine N Post :=
  match i with
  | .nop => id
  | .noteOn note vel => keyDown P note vel
  | .noteOff note => keyUp P note
  | .allNotesOff => allNotesOff P
  | .setModwheel val => latchModwheel P val
  | .setAftertouch val => latchAftertouch P val
  | .setPitchbend val => latchPitchbend P val
  | .reserved7 => id
  | .paramWrite addr data => writeShadow P addr data
  | .snapPublish => publish
  | .cmdPush record => pushRecord P record
  | .setLfo val => latchLfo P val
  | .reservedC => id
  | .reservedD => id
  | .reservedE => id
  | .tick count => sampleSteps P count.toNat
  | .dcwStage line index rate level => applyDcwStage P line index rate level
  | .dcaStage line index rate level => applyDcaStage P line index rate level
  | .pitchStage line index rate level => applyPitchStage P line index rate level
  | .dcwSustain line index => applyDcwSustain P line index
  | .dcaSustain line index => applyDcaSustain P line index
  | .pitchSustain line index => applyPitchSustain P line index
  | .dcwEnd line index => applyDcwEnd P line index
  | .dcaEnd line index => applyDcaEnd P line index
  | .pitchEnd line index => applyPitchEnd P line index
  | .cmdReserved9 => id
  | .cmdReserved10 => id
  | .cmdReserved11 => id
  | .cmdReserved12 => id
  | .cmdReserved13 => id
  | .cmdReserved14 => id
  | .cmdReserved15 => id

/-- A whole program's run, from power-on, of the instance with the parameters P. -/
def engineRun (program : List OpWord) : Engine N Post :=
  program.foldl (fun s w => engineExec P (decodeWord w) s) (Engine.reset P)

end Sys2Proof.Machine
end

