-- ==== Sys2Proof/Safety.lean ====
section
/-! DEFINITION. The ranges 10_state.md states for the elements of the state, as one predicate: what a run can reach, in the
terms the statements use. -/

namespace Sys2Proof.Machine

/-! ## The engine of the reference instance -/

/-- The engine that `exec` and `step` run. -/
abbrev RefEngine := Engine Exact Config.PostState

/-- A voice of that engine. -/
abbrev RefVoice := Voice Exact Config.PostState

/-! ## Numbers -/

/-- A rational in [lo, hi]. -/
def ratWithin (lo hi : ℚ) : Exact → Bool
  | .rat q => decide (lo ≤ q ∧ q ≤ hi)
  | _ => false

/-- A rational above 0. -/
def ratPositive : Exact → Bool
  | .rat q => decide (0 < q)
  | _ => false

/-- A rational plus rational multiples of jitter variates: what the arpeggiator's lengths are made of (46_arpeggiator.md R347,
R357). -/
def isLinear (x : Exact) : Bool := (exactLinear x).isSome

/-! ## The ranges -/

/-- An envelope unit in range (10_state.md R50): the values are rationals in [0, 1], the ramp has a length, an active unit that
does not hold has ticks of its ramp left, and only an active, unreleased unit holds. -/
abbrev EnvOk (e : Env Exact) : Prop :=
  ratWithin 0 1 e.val = true ∧ ratWithin 0 1 e.v0 = true ∧ ratWithin 0 1 e.tgt = true ∧ 1 ≤ e.dur ∧ e.k ≤ e.dur ∧
    (e.active = true → e.hold = false → e.k < e.dur) ∧ (e.hold = true → e.active = true ∧ e.rel = false)

/-- A voice in range (10_state.md R48, R50). -/
abbrev VoiceOk (v : RefVoice) : Prop :=
  ratWithin 0 1 v.vel = true ∧ v.ctl < 8 ∧
    ∀ e ∈ [v.dcw1, v.dcw2, v.dca1, v.dca2, v.pitch1, v.pitch2], EnvOk e

/-- A bank in its canonical form with legal words only (10_state.md R30, R31). -/
abbrev BankOk (b : Bank) : Prop := Bank.wf ref.pool b = true ∧ Bank.legal ref.pool b = true

/-- The input latches in the ranges of their formats (10_state.md R23-R26; 00_scope.md R12). -/
abbrev LatchesOk (s : RefEngine) : Prop :=
  ratWithin 0 1 s.modWheel = true ∧ ratWithin 0 1 s.aftertouch = true ∧
    ratWithin (-128) (128 - 1 / 256) s.pitchBend = true ∧ ratWithin (-1) 1 s.lfoIn = true

/-- The arpeggiator's discrete part in range (10_state.md R53): distinct held notes within HELD_MAX, running exactly while a
note is held, a gate open only while running. -/
abbrev ArpOk (s : RefEngine) : Prop :=
  s.held.Nodup ∧ s.held.length ≤ 16 ∧ s.arpRun = !s.held.isEmpty ∧ (s.arpGateOpen = true → s.arpRun = true)

/-- The arpeggiator's lengths in range (10_state.md R53): ARP_ACC at least 0, ARP_LEN and ARP_BASE above 0. -/
abbrev ArpLengthsOk (s : RefEngine) : Prop :=
  isLinear s.arpAcc = true ∧ 0 ≤ s.arpAcc.toReal ∧ isLinear s.arpLen = true ∧ 0 < s.arpLen.toReal ∧
    ratPositive s.arpBase = true

/-- The pool, the cursor and the FIFO in range (10_state.md R22, R27, R47). -/
abbrev PoolOk (s : RefEngine) : Prop :=
  s.voices.length = 8 ∧ (∀ v ∈ s.voices, VoiceOk v) ∧ s.rrCursor < 8 ∧ s.cmdq.length ≤ 64

/-- The output pair in range (10_state.md R28; 43_voice.md R237). -/
abbrev OutputOk (s : RefEngine) : Prop := s.outL = s.outR ∧ -16 ≤ s.outL.toReal ∧ s.outL.toReal ≤ 16

/-- The state invariant: every element in the range its rule states. -/
structure Inv (s : RefEngine) : Prop where
  /-- SHADOW holds legal words. -/
  shadow : BankOk s.shadow
  /-- PENDING holds legal words. -/
  pending : BankOk s.pending
  /-- ACTIVE holds legal words. -/
  active : BankOk s.active
  /-- The input latches are in range. -/
  latches : LatchesOk s
  /-- The voices, the cursor and the FIFO are in range. -/
  pool : PoolOk s
  /-- The arpeggiator is in range. -/
  arp : ArpOk s
  /-- The arpeggiator's lengths are in range. -/
  lengths : ArpLengthsOk s
  /-- The outputs are in range. -/
  output : OutputOk s

/-! ## The block over the reals -/

/-- An envelope unit over another NUM. -/
def mapEnv {M N : Type} (f : M → N) (e : Env M) : Env N :=
  { stage := e.stage, active := e.active, rel := e.rel, hold := e.hold, val := f e.val, v0 := f e.v0, tgt := f e.tgt
    dur := e.dur, k := e.k }

/-- A voice over another NUM. -/
def mapVoice {M N Post : Type} (f : M → N) (v : Voice M Post) : Voice N Post :=
  { note := v.note, vel := f v.vel, stamp := v.stamp, rel := v.rel, ctl := v.ctl, osc1 := v.osc1, osc2 := v.osc2
    dcw1 := mapEnv f v.dcw1, dcw2 := mapEnv f v.dcw2, dca1 := mapEnv f v.dca1, dca2 := mapEnv f v.dca2
    pitch1 := mapEnv f v.pitch1, pitch2 := mapEnv f v.pitch2, post := v.post }

/-- An allocator event over another NUM. -/
def mapEvent {M N : Type} (f : M → N) : AllocEvent M → AllocEvent N
  | .noteOn n vel => .noteOn n (f vel)
  | .noteOff n => .noteOff n

/-- An engine over another NUM. -/
def mapEngine {M N Post : Type} (f : M → N) (s : Engine M Post) : Engine N Post :=
  { time := s.time, rrCursor := s.rrCursor, modWheel := f s.modWheel, aftertouch := f s.aftertouch
    pitchBend := f s.pitchBend, lfoIn := f s.lfoIn, cmdq := s.cmdq, outL := f s.outL, outR := f s.outR
    shadow := s.shadow, pending := s.pending, active := s.active, pendingValid := s.pendingValid
    voices := s.voices.map (mapVoice f), held := s.held, arpRun := s.arpRun, arpIdx := s.arpIdx, arpDir := s.arpDir
    arpAcc := f s.arpAcc, arpStep := s.arpStep, arpLen := f s.arpLen, arpBase := f s.arpBase, arpNote := s.arpNote
    arpGateOpen := s.arpGateOpen, draws := s.draws, events := s.events.map (mapEvent f) }

/-- The engine over ℝ that a reference engine stands for. -/
noncomputable def realEngine (s : RefEngine) : Engine ℝ Config.PostState := mapEngine Exact.toReal s

/-! ## Terms of the statements -/

/-- The bits that the layout of an operation word's opcode names, OP among them (30_encoding.md R100-R112). -/
def namedBits (w : OpWord) : OpWord :=
  match (w.extractLsb' 60 4).toNat with
  | 1 => 0xF0000000FFFF007F#64
  | 2 => 0xF00000000000007F#64
  | 4 => 0xF00000000000FFFF#64
  | 5 => 0xF00000000000FFFF#64
  | 6 => 0xF00000000000FFFF#64
  | 8 => 0xF00003FFFFFFFFFF#64
  | 10 => 0xF000FFFFFFFFFFFF#64
  | 11 => 0xF00000000000FFFF#64
  | 15 => 0xF0000000FFFFFFFF#64
  | _ => 0xF000000000000000#64

/-- The bits of a record that its type uses: not the reserved bits [15:10] (30_encoding.md R110), for a sustain or end
record not RATE and LEVEL (45_protocol.md R313-R318), and for a reserved type TYPE alone (30_encoding.md R115). -/
def namedRecordBits (r : Rec) : Rec :=
  match (Rec.type r).toNat with
  | 0 => 0xFFFFFFFF03FF#48
  | 1 => 0xFFFFFFFF03FF#48
  | 2 => 0xFFFFFFFF03FF#48
  | 3 => 0x0000000003FF#48
  | 4 => 0x0000000003FF#48
  | 5 => 0x0000000003FF#48
  | 6 => 0x0000000003FF#48
  | 7 => 0x0000000003FF#48
  | 8 => 0x0000000003FF#48
  | _ => 0x00000000000F#48

/-- The host's operations (00_scope.md R5, 60_exceptions.md R417). -/
abbrev IsHostOp (i : Instr) : Prop :=
  (∃ a d, i = .paramWrite a d) ∨ i = .snapPublish ∨ ∃ r, i = .cmdPush r

/-- What the engine reads between two block boundaries: all but SHADOW, PENDING, PENDING_VALID and CMDQ (60_exceptions.md
R418). -/
def engineView (s : State) : State := { s with shadow := [], pending := [], pendingValid := false, cmdq := [] }

/-- No two voices that are not Free hold the same note (44_events.md R263). -/
abbrev OneVoicePerNote {N Post : Type} (P : Config.Params N Post) (s : Engine N Post) : Prop :=
  ∀ (i j : Nat) (x y : Voice N Post), s.voices[i]? = some x → s.voices[j]? = some y →
    voiceState P s.active x ≠ .free → voiceState P s.active y ≠ .free → x.note = y.note → i = j

end Sys2Proof.Machine
end

