-- ==== Sys2Proof/Certificates/Slice0/Obligations.lean ====
section
/-! DEFINITION. The statements for the provers. Each docstring names the rule of spec/ it formalises, or says what it derives
from. A statement over every `P : Config.Params N Post` holds for every instance of the block (00_scope.md R6); one about
`exec`, `step` or `ref` is about the reference instance (log entry 4), and one about `realRef` about the same instance over ℝ.
`RunsAsTheRealBlock` says that what `exec` does is what `realRef` does. -/

open Sys2Proof Sys2Proof.Machine

/-! ## Encoding -/

/-- Decoding undoes encoding for every instruction, as a word (R100-R112) and as bytes with more bytes after them (R75,
R117). That a command record is an instruction beside the words is log entry 13, and that its six bytes stand in the order of
R75 is log entry 9: the model's choices, since the spec gives records no byte form of their own. -/
def Obligations.DecodeEncodeAgree : Prop :=
  (∀ i : Instr, decode (encode i) = i) ∧
  (∀ (i : Instr) (rest : List Byte), i.isRecord = false → decodeBytes (encodeBytes i ++ rest) = .ok (i, rest)) ∧
  (∀ (i : Instr) (rest : List Byte), i.isRecord = true →
    decodeRecordBytes (encodeBytes i ++ rest) = .ok (i, rest))

/-- R114: ignored bits do not matter, and an encoder writes them as 0. Every word is its instruction's encoding but for the
bits its layout does not name, and words that agree on the named bits execute identically in every state. That RATE and LEVEL of
a sustain or end record and all of a reserved record but TYPE belong to the ignored bits is read from R115 and R313-R318, and
that `encode` writes them as 0 is the model's own. -/
def Obligations.IgnoredBitsDoNotMatter : Prop :=
  (∀ w : OpWord, encode (decodeWord w) = .op (w &&& namedBits w)) ∧
  (∀ r : Rec, encode (decodeRecord r) = .cmd (r &&& namedRecordBits r)) ∧
  (∀ (w w' : OpWord) (s : State), w &&& namedBits w = w' &&& namedBits w' →
    exec (decodeWord w) s = exec (decodeWord w') s) ∧
  (∀ (r r' : Rec) (s : State), r &&& namedRecordBits r = r' &&& namedRecordBits r' →
    exec (decodeRecord r) s = exec (decodeRecord r') s)

/-- Example words of the spec decode to the instructions they stand for (R260, R261, R270-R273, R300-R302, R310-R318,
R390). -/
def Obligations.SpecWordsDecode : Prop :=
  decodeWord 0x100000008000003C#64 = .noteOn 60#7 0x8000#16 ∧
  decodeWord 0x200000000000003C#64 = .noteOff 60#7 ∧
  decodeWord 0x4000000000004000#64 = .setModwheel 0x4000#16 ∧
  decodeWord 0x600000000000FE00#64 = .setPitchbend 0xFE00#16 ∧
  decodeWord 0x8000011000000004#64 = .paramWrite 0x110#10 4#32 ∧
  decodeWord 0xA000400080000011#64 = .cmdPush 0x400080000011#48 ∧
  decodeRecord 0x8000123401E0#48 = .dcwStage 2#2 7#4 0x1234#16 0x8000#16 ∧
  decodeRecord 0x0000000003D4#48 = .dcaSustain 1#2 15#4 ∧
  decodeRecord 0x0000000001E8#48 = .pitchEnd 2#2 7#4 ∧
  decodeWord 0xF000000000000040#64 = .tick 64#32

/-! ## The step -/

/-- A step runs the instruction it decodes: the next item of what the driver delivers is taken and executed, and with none left
nothing happens. The bytes of an operation word name the same instruction. (R4, R55, R86; that the sequence stands in a field
of State, and that a record can be an item of it, are log entries 1 and 2.) -/
def Obligations.StepRunsDecodedInstruction : Prop :=
  (∀ (s : State) (e : Encoded) (rest : List Encoded), s.stimulus = e :: rest →
    step s = exec (decode e) { s with stimulus := rest }) ∧
  (∀ s : State, s.stimulus = [] → step s = .next s) ∧
  (∀ (s : State) (w : OpWord), step (s.withFetchWord 64 w.toNat) = exec (decodeWord w) s) ∧
  (∀ (s : State) (r : Rec), step (s.withFetchWord 48 r.toNat) = exec (decodeRecord r) s) ∧
  (∀ (bytes tail : List Byte) (i : Instr), decodeBytes bytes = .ok (i, tail) →
    ∃ w : Nat, takeLittleEndian 8 bytes = .ok (w, tail) ∧ ∀ (s : State) (rest : List Encoded),
      s.stimulus = .op (BitVec.ofNat 64 w) :: rest → step s = exec i { s with stimulus := rest })

/-- R88: every operation has a step in every state, and none waits: a push into a full FIFO and a second publish have their
effect at once. -/
def Obligations.EveryOperationHasAStep : Prop :=
  (∀ (i : Instr) (s : State), ∃ t, exec i s = .next t) ∧
  (∀ s : State, ∃ t, step s = .next t) ∧
  (∀ (r : Rec) (s : State), s.cmdq.length = 64 → exec (.cmdPush r) s = .next s) ∧
  (∀ s : State, s.pendingValid = true → exec .snapPublish s = .next { s with pending := s.shadow })

/-- R113: a word with a reserved opcode executes as NOP and changes no state, and no word traps. The same of NOP (R394) and of a
reserved record type when it is applied (R115). -/
def Obligations.NopsChangeNothing : Prop :=
  (∀ (w : OpWord) (s : State), (w.extractLsb' 60 4).toNat ∈ [0x0, 0x7, 0xC, 0xD, 0xE] →
    exec (decodeWord w) s = .next s) ∧
  (∀ (w : OpWord) (s : State), ∃ t, exec (decodeWord w) s = .next t) ∧
  (∀ s : State, ∀ i ∈ [Instr.nop, .reserved7, .reservedC, .reservedD, .reservedE], exec i s = .next s) ∧
  (∀ (r : Rec) (s : State), 9 ≤ (Rec.type r).toNat → exec (decodeRecord r) s = .next s) ∧
  (∀ s : State, ∀ i ∈ [Instr.cmdReserved9, .cmdReserved10, .cmdReserved11, .cmdReserved12, .cmdReserved13,
    .cmdReserved14, .cmdReserved15], exec i s = .next s)

/-- Only TICK moves TIME, by COUNT modulo 2^64 (R21, R390, R391, R394). -/
def Obligations.OnlyTickMovesTime : Prop :=
  (∀ (i : Instr) (s t : State), (∀ c, i ≠ .tick c) → exec i s = .next t → t.time = s.time) ∧
  (∀ (c : BitVec 32) (s : State), ∃ t, exec (.tick c) s = .next t ∧ t.time = s.time + c.setWidth 64)

/-! ## Setters -/

/-- R270-R273: each setter latches its decoded value and changes nothing else; codes beyond a format's range latch the bound
(the corner cases); the words and examples of the rules. -/
def Obligations.SettersLatch : Prop :=
  (∀ (c : Code) (s : State),
    exec (.setModwheel c) s = .next { s with modWheel := .rat (((min c.toNat 0x8000 : Nat) : ℚ) / 32768) } ∧
    exec (.setAftertouch c) s = .next { s with aftertouch := .rat (((min c.toNat 0x8000 : Nat) : ℚ) / 32768) } ∧
    exec (.setPitchbend c) s = .next { s with pitchBend := .rat ((c.toInt : ℚ) / 256) } ∧
    exec (.setLfo c) s = .next { s with lfoIn := .rat (min (max ((c.toInt : ℚ) / 16384) (-1)) 1) }) ∧
  (∀ w : OpWord,
    ((w.extractLsb' 60 4).toNat = 4 → decodeWord w = .setModwheel (w.extractLsb' 0 16)) ∧
    ((w.extractLsb' 60 4).toNat = 5 → decodeWord w = .setAftertouch (w.extractLsb' 0 16)) ∧
    ((w.extractLsb' 60 4).toNat = 6 → decodeWord w = .setPitchbend (w.extractLsb' 0 16)) ∧
    ((w.extractLsb' 60 4).toNat = 11 → decodeWord w = .setLfo (w.extractLsb' 0 16))) ∧
  (∀ (c : Code) (s : State), 0x8000 ≤ c.toNat →
    exec (.setModwheel c) s = .next { s with modWheel := .rat 1 } ∧
    exec (.setAftertouch c) s = .next { s with aftertouch := .rat 1 }) ∧
  (∀ (c : Code) (s : State), 0x4001 ≤ c.toNat → c.toNat ≤ 0x7FFF →
    exec (.setLfo c) s = .next { s with lfoIn := .rat 1 }) ∧
  (∀ (c : Code) (s : State), 0x8000 ≤ c.toNat → c.toNat ≤ 0xBFFF →
    exec (.setLfo c) s = .next { s with lfoIn := .rat (-1) }) ∧
  (∀ s : State, exec (decodeWord 0x4000000000004000#64) s = .next { s with modWheel := .rat (1 / 2) } ∧
    exec (decodeWord 0x5000000000008000#64) s = .next { s with aftertouch := .rat 1 } ∧
    exec (decodeWord 0x6000000000000200#64) s = .next { s with pitchBend := .rat 2 } ∧
    exec (decodeWord 0x600000000000FE00#64) s = .next { s with pitchBend := .rat (-2) } ∧
    exec (decodeWord 0xB00000000000C000#64) s = .next { s with lfoIn := .rat (-1) })

/-! ## Note events and the allocator -/

/-- NOTE_ON with the arpeggiator off, R262 case 1 and R263: the lowest slot of the whole pool that is not Free and holds the
note is triggered again; the allocator has received the event (R4, log entry 16), and nothing else changes. -/
def Obligations.NoteOnRetriggers : Prop :=
  ∀ (s : State) (n : Note) (vel : Code) (v : Nat) (x : RefVoice), arpOn ref s.active = false → s.voices[v]? = some x →
    voiceState ref s.active x ≠ .free → x.note = n →
    (∀ (u : Nat) (y : RefVoice), u < v → s.voices[u]? = some y → voiceState ref s.active y = .free ∨ y.note ≠ n) →
    exec (.noteOn n vel) s =
      .next { s with
        voices := s.voices.set v (voiceNoteOn ref s.active s.time n (.rat (uq15 vel)) x)
        events := s.events ++ [.noteOn n (.rat (uq15 vel))] }

/-- NOTE_ON with the arpeggiator off, R262 case 2 and R264: no slot that is not Free holds the note, and the lowest Free slot
below VLIM is triggered; the allocator has received the event (log entry 16), and nothing else changes. -/
def Obligations.NoteOnTakesLowestFree : Prop :=
  ∀ (s : State) (n : Note) (vel : Code) (v : Nat) (x : RefVoice), arpOn ref s.active = false →
    (∀ y ∈ s.voices, voiceState ref s.active y = .free ∨ y.note ≠ n) → v < voiceLimit ref s.active →
    s.voices[v]? = some x → voiceState ref s.active x = .free →
    (∀ (u : Nat) (y : RefVoice), u < v → s.voices[u]? = some y → voiceState ref s.active y ≠ .free) →
    exec (.noteOn n vel) s =
      .next { s with
        voices := s.voices.set v (voiceNoteOn ref s.active s.time n (.rat (uq15 vel)) x)
        events := s.events ++ [.noteOn n (.rat (uq15 vel))] }

/-- NOTE_ON with the arpeggiator off, R262 case 3 and R265 with STEAL = 0: with every slot below VLIM sounding, the slot with
the least (V_STAMP, index) is stolen; RR_CURSOR stays; the allocator has received the event (log entry 16). -/
def Obligations.NoteOnStealsOldest : Prop :=
  ∀ (s : State) (n : Note) (vel : Code) (v : Nat) (x : RefVoice), arpOn ref s.active = false →
    roundRobinSteal ref s.active = false → (∀ y ∈ s.voices, voiceState ref s.active y = .free ∨ y.note ≠ n) →
    (∀ (u : Nat) (y : RefVoice), u < voiceLimit ref s.active → s.voices[u]? = some y →
      voiceState ref s.active y ≠ .free) →
    v < voiceLimit ref s.active → s.voices[v]? = some x →
    (∀ (u : Nat) (y : RefVoice), u < voiceLimit ref s.active → s.voices[u]? = some y →
      x.stamp.toNat < y.stamp.toNat ∨ (x.stamp = y.stamp ∧ v ≤ u)) →
    exec (.noteOn n vel) s =
      .next { s with
        voices := s.voices.set v (voiceNoteOn ref s.active s.time n (.rat (uq15 vel)) x)
        events := s.events ++ [.noteOn n (.rat (uq15 vel))] }

/-- NOTE_ON with the arpeggiator off, R262 case 3 and R265 with STEAL = 1: with every slot below VLIM sounding, the lowest
Releasing slot below VLIM is stolen and RR_CURSOR stays; with none Releasing, RR_CURSOR moves on modulo VLIM and its slot is
stolen; the allocator has received the event (log entry 16). -/
def Obligations.NoteOnStealsRoundRobin : Prop :=
  ∀ (s : State) (n : Note) (vel : Code) (v : Nat) (x : RefVoice), arpOn ref s.active = false →
    roundRobinSteal ref s.active = true → (∀ y ∈ s.voices, voiceState ref s.active y = .free ∨ y.note ≠ n) →
    (∀ (u : Nat) (y : RefVoice), u < voiceLimit ref s.active → s.voices[u]? = some y →
      voiceState ref s.active y ≠ .free) →
    v < voiceLimit ref s.active → s.voices[v]? = some x →
    (voiceState ref s.active x = .releasing →
      (∀ (u : Nat) (y : RefVoice), u < v → s.voices[u]? = some y → voiceState ref s.active y ≠ .releasing) →
      exec (.noteOn n vel) s =
        .next { s with
          voices := s.voices.set v (voiceNoteOn ref s.active s.time n (.rat (uq15 vel)) x)
          events := s.events ++ [.noteOn n (.rat (uq15 vel))] }) ∧
    ((∀ (u : Nat) (y : RefVoice), u < voiceLimit ref s.active → s.voices[u]? = some y →
        voiceState ref s.active y ≠ .releasing) →
      v = (s.rrCursor + 1) % voiceLimit ref s.active →
      exec (.noteOn n vel) s =
        .next { s with
          rrCursor := v
          voices := s.voices.set v (voiceNoteOn ref s.active s.time n (.rat (uq15 vel)) x)
          events := s.events ++ [.noteOn n (.rat (uq15 vel))] })

/-- R220 and R187, for every instance: what VOICE_NOTE_ON leaves in every element of the voice; INC and V_POST stay; the voice
is then Active. -/
def Obligations.VoiceNoteOnFields : Prop :=
  ∀ (N Post : Type) (P : Config.Params N Post) (b : Bank) (time : BitVec 64) (n : Note) (vel : N) (v w : Voice N Post),
    w = voiceNoteOn P b time n vel v →
    w.note = n ∧ w.vel = vel ∧ w.stamp = time ∧ w.rel = false ∧ w.ctl = 0 ∧ w.post = v.post ∧
    (∀ l : Line, voiceOsc w l = { ph := 0, inc := (voiceOsc v l).inc }) ∧
    (∀ (t : EnvType) (l : Line), voiceEnv w t l =
      { stage := 0, active := true, rel := false, hold := false
        val := numOf P (envInitial P b t l), v0 := numOf P (envInitial P b t l)
        tgt := numOf P (uq15 (stageLevel P b t l 0))
        dur := rampTicks P (fastMode P b) (rateIndex (stageRate P b t l 0)), k := 0 }) ∧
    voiceState P b w = .active

/-- R221 and R188, for every instance: VOICE_NOTE_OFF sets V_REL; each active unit jumps to END's ramp from its current value,
each dormant unit stays; a sounding voice is then Releasing and a Free one Free. -/
def Obligations.VoiceNoteOffFields : Prop :=
  ∀ (N Post : Type) (P : Config.Params N Post) (b : Bank) (v w : Voice N Post), w = voiceNoteOff P b v →
    w.rel = true ∧ w.note = v.note ∧ w.vel = v.vel ∧ w.stamp = v.stamp ∧ w.ctl = v.ctl ∧ w.post = v.post ∧
    (∀ l : Line, voiceOsc w l = voiceOsc v l) ∧
    (∀ (t : EnvType) (l : Line), (voiceEnv v t l).active = false → voiceEnv w t l = voiceEnv v t l) ∧
    (∀ (t : EnvType) (l : Line), (voiceEnv v t l).active = true → voiceEnv w t l =
      { stage := endPoint P b t l, active := true, rel := true, hold := false, val := (voiceEnv v t l).val
        v0 := (voiceEnv v t l).val, tgt := numOf P (uq15 (stageLevel P b t l (endPoint P b t l)))
        dur := rampTicks P (fastMode P b) (rateIndex (stageRate P b t l (endPoint P b t l))), k := 0 }) ∧
    (voiceState P b v = .free → voiceState P b w = .free) ∧
    (voiceState P b v ≠ .free → voiceState P b w = .releasing)

/-- R261 and R266, with the arpeggiator off: the lowest Active slot with the note is released; with no such slot none is. The
allocator has received the event (R4, log entry 16), and nothing else changes. -/
def Obligations.NoteOffReleasesLowestActive : Prop :=
  (∀ (s : State) (n : Note) (v : Nat) (x : RefVoice), arpOn ref s.active = false → s.voices[v]? = some x →
    voiceState ref s.active x = .active → x.note = n →
    (∀ (u : Nat) (y : RefVoice), u < v → s.voices[u]? = some y → voiceState ref s.active y = .active → y.note ≠ n) →
    exec (.noteOff n) s =
      .next { s with
        voices := s.voices.set v (voiceNoteOff ref s.active x)
        events := s.events ++ [.noteOff n] }) ∧
  (∀ (s : State) (n : Note), arpOn ref s.active = false →
    (∀ y ∈ s.voices, voiceState ref s.active y = .active → y.note ≠ n) →
    exec (.noteOff n) s = .next { s with events := s.events ++ [.noteOff n] })

/-- ALL_NOTES_OFF clears the arpeggiator and releases every Active voice by VOICE_NOTE_OFF, whatever ARP_ON is; no other voice and
nothing else changes (R268, R363). That the events the allocator has received stay as they were, since no release here is a call
of one of its entry points, is the model's choice: log entry 16. -/
def Obligations.AllNotesOffReleasesActive : Prop :=
  ∀ s : State, ∃ t, exec .allNotesOff s = .next t ∧
    t = { s with held := [], arpRun := false, arpGateOpen := false, voices := t.voices } ∧
    t.voices.length = s.voices.length ∧
    ∀ (v : Nat) (x : RefVoice), s.voices[v]? = some x →
      (voiceState ref s.active x = .active → t.voices[v]? = some (voiceNoteOff ref s.active x)) ∧
      (voiceState ref s.active x ≠ .active → t.voices[v]? = some x)

/-- R263, for every instance: an allocation keeps "at most one non-Free voice ever holds a given note". -/
def Obligations.AllocationKeepsOneVoicePerNote : Prop :=
  ∀ (N Post : Type) (P : Config.Params N Post) (s : Engine N Post) (n : Note) (vel : N), OneVoicePerNote P s →
    OneVoicePerNote P (allocNoteOn P s n vel)

/-! ## Envelopes -/

/-- R189-R191, for every instance: every case of ENV_ADVANCE. -/
def Obligations.EnvAdvanceCases : Prop :=
  ∀ (N Post : Type) (P : Config.Params N Post) (b : Bank) (t : EnvType) (l : Line) (e : Env N),
    letI := P.num
    (e.active = false ∨ e.hold = true → envAdvance P b t l e = e) ∧
    (e.active = true → e.hold = false → e.k + 1 < e.dur → envAdvance P b t l e =
      { e with k := e.k + 1, val := e.v0 + (e.tgt - e.v0) * numOf P ((e.k + 1 : Nat) : ℚ) / numOf P (e.dur : ℚ) }) ∧
    (e.active = true → e.hold = false → e.dur ≤ e.k + 1 → sustainPoint P b t l = some e.stage → e.rel = false →
      envAdvance P b t l e = { e with k := e.k + 1, val := e.tgt, hold := true }) ∧
    (e.active = true → e.hold = false → e.dur ≤ e.k + 1 → (sustainPoint P b t l ≠ some e.stage ∨ e.rel = true) →
      endPoint P b t l ≤ e.stage → envAdvance P b t l e = { e with k := e.k + 1, val := e.tgt, active := false }) ∧
    (e.active = true → e.hold = false → e.dur ≤ e.k + 1 → (sustainPoint P b t l ≠ some e.stage ∨ e.rel = true) →
      e.stage < endPoint P b t l → envAdvance P b t l e =
        { e with
          k := 0
          val := e.tgt
          v0 := e.tgt
          stage := e.stage + 1
          tgt := numOf P (uq15 (stageLevel P b t l (e.stage + 1)))
          dur := rampTicks P (fastMode P b) (rateIndex (stageRate P b t l (e.stage + 1))) })

/-- R193 (a), with R186 and R187: after ENV_NOTE_ON the value is the linear ramp from INIT to stage 0's level for DUR control
ticks, and exactly that level at the DUR-th. -/
def Obligations.EnvReachesFirstLevel : Prop :=
  ∀ (b : Bank) (t : EnvType) (l : Line) (e : Env Exact) (d : Nat), d = (envNoteOn ref b t l e).dur →
    1 ≤ d ∧ d = rampTicks ref (fastMode ref b) (rateIndex (stageRate ref b t l 0)) ∧
    (∀ n < d, ((envAdvance ref b t l)^[n] (envNoteOn ref b t l e)).val =
      .rat (envInitial ref b t l + (uq15 (stageLevel ref b t l 0) - envInitial ref b t l) * (n : ℚ) / (d : ℚ))) ∧
    ((envAdvance ref b t l)^[d] (envNoteOn ref b t l e)).val = .rat (uq15 (stageLevel ref b t l 0))

/-- R188 and R190, the release rule, for every instance: after ENV_NOTE_OFF an active unit, whichever stage it was in, stays
active for DUR(END) - 1 control ticks and is dormant at END's level after DUR(END). -/
def Obligations.ReleaseEndsAtEndLevel : Prop :=
  ∀ (N Post : Type) (P : Config.Params N Post) (b : Bank) (t : EnvType) (l : Line) (e : Env N) (d : Nat),
    e.active = true → d = (envNoteOff P b t l e).dur →
    d = rampTicks P (fastMode P b) (rateIndex (stageRate P b t l (endPoint P b t l))) ∧
    (∀ n < d, ((envAdvance P b t l)^[n] (envNoteOff P b t l e)).active = true) ∧
    ((envAdvance P b t l)^[d] (envNoteOff P b t l e)).active = false ∧
    ((envAdvance P b t l)^[d] (envNoteOff P b t l e)).val = numOf P (uq15 (stageLevel P b t l (endPoint P b t l))) ∧
    ((envAdvance P b t l)^[d] (envNoteOff P b t l e)).stage = endPoint P b t l

/-! ## Exact arithmetic over the reals -/

/-- The comparisons and the floor of `coef * 2 ^ exp`, also with a rational added, are those of the real number (R9, R11; log
entry 3). -/
def Obligations.ExpTwoIsExact : Prop :=
  ∀ x : Exp2, 0 ≤ x.coef →
    exp2Floor x = ⌊(x.coef : ℝ) * (2 : ℝ) ^ (x.exp : ℝ)⌋ ∧
    (∀ q : ℚ, exp2FloorPlus q x = ⌊(q : ℝ) + (x.coef : ℝ) * (2 : ℝ) ^ (x.exp : ℝ)⌋) ∧
    ∀ q : ℚ, exp2Ge x q = true ↔ (q : ℝ) ≤ (x.coef : ℝ) * (2 : ℝ) ^ (x.exp : ℝ)

/-- R182 and R183 at the reference parameters: DUR of every rate index, over the reals. -/
def Obligations.RampTicksAreReal : Prop :=
  ∀ (fast : Bool) (i : Nat), i ≤ 99 →
    (rampTicks ref fast i : Int) =
      max 1 ⌊(if fast = true ∧ 50 ≤ i then (1 / 2 : ℝ) else 1) * (1 / 2 * (2 : ℝ) ^ ((99 - (i : ℝ)) / 6)) * 48000 / (1000 * 8)
        + 1 / 2⌋

/-- R142, R222 and R226 at the reference parameters: the increment of an oscillator, over the reals, from the pitch in
semitones, for a voice and latches in range. -/
def Obligations.IncrementIsReal : Prop :=
  ∀ (s : RefEngine) (v : RefVoice) (l : Line) (semis : ℝ), LatchesOk s → VoiceOk v →
    semis = (v.note.toNat : ℝ) + s.pitchBend.toReal + (oscDetune ref s.active l : ℝ)
      + (penvDepth ref s.active : ℝ) * (voiceEnv v .pitch l).val.toReal
      + s.lfoIn.toReal * ((vibDepth ref s.active : ℝ) + (wheelVib ref s.active : ℝ) * s.modWheel.toReal) →
    ((incr ref (voiceFreq ref s v l)).toNat : Int) =
      min ⌊min (max (440 * (2 : ℝ) ^ ((semis - 69) / 12)) 20) 20000 * 2 ^ 32 / 48000⌋ (2 ^ 64 - 1)

/-- R194: RATE_INV over the reals, and that the executed instance answers it for every rational duration. -/
def Obligations.RateInvIsReal : Prop :=
  (∀ ms : ℝ, 0 < ms →
    (realRef.rateInv ms : Int) = min (max ⌊99 - 6 * Real.logb 2 (ms / (1 / 2)) + 1 / 2⌋ 0) 99) ∧
  (∀ ms : ℝ, ms ≤ 0 → realRef.rateInv ms = 99) ∧
  (∀ q : ℚ, ref.rateInv (.rat q) = realRef.rateInv (q : ℝ))

/-- R195: the block the ADSR adapter returns, every word in numbers; each word is one LEGAL stores as it stands, and each rate
code decodes back to its RATE_INV index (R181). -/
def Obligations.AdsrBlockContents : Prop :=
  ∀ (attack decay release : Exact) (sustain : ℚ) (block : AdsrBlock),
    block = adsr ref attack decay (.rat sustain) release →
    block.stages.map BitVec.toNat =
      [ 0x8000 * 65536 + ⌊(ref.rateInv attack : ℚ) * 32768 / 99 + 1 / 2⌋.toNat,
        ⌊min (max sustain 0) 1 * 32768 + 1 / 2⌋.toNat * 65536 + ⌊(ref.rateInv decay : ℚ) * 32768 / 99 + 1 / 2⌋.toNat,
        ⌊min (max sustain 0) 1 * 32768 + 1 / 2⌋.toNat * 65536 + 0x8000,
        ⌊(ref.rateInv release : ℚ) * 32768 / 99 + 1 / 2⌋.toNat, 0x8000, 0x8000, 0x8000, 0x8000 ] ∧
    block.sustain = 2 ∧ block.endStage = 3 ∧
    (∀ w ∈ block.stages, ∀ (t : EnvType) (l : Line) (k : Fin 8) (old : ParamWord),
      legal ref.pool (.envStage t l k) old w = w) ∧
    (∀ i ≤ 99, rateIndex (rateCode i) = i)

/-! ## The oscillator -/

/-- R140 and R141: the accumulator's exact sum, its wrap flag, its corner cases and example, and a phase in [0, 1). -/
def Obligations.PhaseAccumulator : Prop :=
  (∀ (ph : BitVec 32) (inc : BitVec 64),
    (acc ph inc).1.toNat = (ph.toNat + inc.toNat) % 2 ^ 32 ∧
    ((acc ph inc).2 = true ↔ 1 ≤ (ph.toNat + inc.toNat) / 2 ^ 32) ∧
    accWraps ph inc = (ph.toNat + inc.toNat) / 2 ^ 32 ∧ (2 ^ 33 ≤ inc.toNat → 1 < accWraps ph inc)) ∧
  (∀ ph : BitVec 32, phaseOf ph = (ph.toNat : ℚ) / 2 ^ 32 ∧ 0 ≤ phaseOf ph ∧ phaseOf ph < 1) ∧
  (∀ inc : BitVec 64, incrementOf inc = (inc.toNat : ℚ) / 2 ^ 32) ∧
  (∀ ph : BitVec 32, acc ph 0 = (ph, false) ∧ acc ph 0x100000000#64 = (ph, true) ∧ accWraps ph 0x100000000#64 = 1) ∧
  acc 0xF0000000#32 0x20000000#64 = (0x10000000#32, true)

/-- R143 and R54 at the reference table: the table's entries are the sines, SIN interpolates linearly between two of them, it is
periodic, odd about half a period, within [-1, 1] and exact at the quarters; and the executed instance's SIN denotes it. -/
def Obligations.SineLookupShape : Prop :=
  (∀ k : Nat, realRef.sineTable k = Real.sin (2 * Real.pi * k / 2048) ∧
    (ref.sineTable k).toReal = Real.sin (2 * Real.pi * k / 2048)) ∧
  (∀ x : ℝ, ∃ (i : Nat) (u : ℝ), i < 2048 ∧ 0 ≤ u ∧ u < 1 ∧ Int.fract x * 2048 = (i : ℝ) + u ∧
    sineOf realRef x = Real.sin (2 * Real.pi * i / 2048)
      + u * (Real.sin (2 * Real.pi * ((i + 1) % 2048 : Nat) / 2048) - Real.sin (2 * Real.pi * i / 2048))) ∧
  (∀ x : ℝ, -1 ≤ sineOf realRef x ∧ sineOf realRef x ≤ 1 ∧ sineOf realRef (x + 1) = sineOf realRef x ∧
    sineOf realRef (x + 1 / 2) = -sineOf realRef x) ∧
  sineOf realRef 0 = 0 ∧ sineOf realRef (1 / 4) = 1 ∧ sineOf realRef (1 / 2) = 0 ∧ sineOf realRef (3 / 4) = -1 ∧
  (∀ x : Exact, (sineOf ref x).toReal = sineOf realRef x.toReal)

/-- R145-R152: the warps, in numbers, the warped phase that interpolates between the plain phase and the warp, for every
instance, and that the executed instance's denotes the real one. -/
def Obligations.WarpFormulas : Prop :=
  (∀ (w : Wave) (p d : ℝ), warpedPhase realRef w p d = (1 - d) * p + d * warp realRef w p) ∧
  (∀ p : ℝ, warp realRef .saw p = 1 / 4 + p / 2) ∧
  (∀ p : ℝ, p < 1 / 2 → warp realRef .square p = 1 / 8 + p / 2) ∧
  (∀ p : ℝ, 1 / 2 ≤ p → warp realRef .square p = 5 / 8 + (p - 1 / 2) / 2) ∧
  (∀ p : ℝ, p < 1 / 4 → warp realRef .pulse p = 1 / 8 + p) ∧
  (∀ p : ℝ, 1 / 4 ≤ p → warp realRef .pulse p = 5 / 8 + (p - 1 / 4) / 3) ∧
  (∀ p : ℝ, warp realRef .dsine p = Int.fract (2 * p)) ∧
  (∀ p : ℝ, warp realRef .reso1 p = warp realRef .saw (Int.fract (p + 1 / 8 * sineOf realRef (Int.fract (2 * p))))) ∧
  (∀ p : ℝ, warp realRef .reso2 p = warp realRef .square (Int.fract (p + 1 / 8 * sineOf realRef (Int.fract (3 * p))))) ∧
  (∀ p : ℝ, warp realRef .reso3 p = warp realRef .pulse (Int.fract (p + 1 / 8 * sineOf realRef (Int.fract (4 * p))))) ∧
  (∀ (w : Wave) (p d : Exact), (warpedPhase ref w p d).toReal = warpedPhase realRef w p.toReal d.toReal)

/-- R153-R158: the jump heights of the edges, the step residual, the correction at every distortion amount, and the sample of an
oscillator, in single and in dual mode (R156), clamped to [-1, 1]; at DCW amount 0 a pure sine; and that the executed instance's
sample denotes the real one. -/
def Obligations.OscillatorSample : Prop :=
  (∀ d : ℝ,
    edgeHeight realRef .saw 0 d = sineOf realRef (d / 4) - sineOf realRef (1 - d / 4) ∧
    edgeHeight realRef .square 0 d = sineOf realRef (d / 8) - sineOf realRef (1 - d / 8) ∧
    edgeHeight realRef .square (1 / 2) d = sineOf realRef (1 / 2 + d / 8) - sineOf realRef (1 / 2 - d / 8) ∧
    edgeHeight realRef .pulse 0 d = sineOf realRef (d / 8) - sineOf realRef (1 - d / 8) ∧
    edgeHeight realRef .pulse (1 / 4) d = sineOf realRef (1 / 4 + 3 * d / 8) - sineOf realRef (1 / 4 + d / 8)) ∧
  (edgeHeight realRef .saw 0 1 = 2 ∧ edgeHeight realRef .square 0 1 = √2 ∧ edgeHeight realRef .square (1 / 2) 1 = -√2 ∧
    edgeHeight realRef .pulse 0 1 = √2 ∧ edgeHeight realRef .pulse (1 / 4) 1 = -√2) ∧
  (∀ t dt : ℝ,
    (t < dt → polyBlep realRef t dt = 2 * (t / dt) - (t / dt) ^ 2 - 1) ∧
    (dt ≤ t → 1 - dt < t → polyBlep realRef t dt = ((t - 1) / dt) ^ 2 + 2 * ((t - 1) / dt) + 1) ∧
    (dt ≤ t → t ≤ 1 - dt → polyBlep realRef t dt = 0)) ∧
  (∀ ps dts d : ℝ,
    (1 / 2 ≤ dts → ∀ w : Wave, blep realRef w ps dts d = 0) ∧
    (dts < 1 / 2 →
      blep realRef .saw ps dts d = edgeHeight realRef .saw 0 d / 2 * polyBlep realRef (Int.fract ps) dts ∧
      blep realRef .square ps dts d = edgeHeight realRef .square 0 d / 2 * polyBlep realRef (Int.fract ps) dts
        + edgeHeight realRef .square (1 / 2) d / 2 * polyBlep realRef (Int.fract (ps - 1 / 2)) dts ∧
      blep realRef .pulse ps dts d = edgeHeight realRef .pulse 0 d / 2 * polyBlep realRef (Int.fract ps) dts
        + edgeHeight realRef .pulse (1 / 4) d / 2 * polyBlep realRef (Int.fract (ps - 1 / 4)) dts) ∧
    (∀ w ∈ [Wave.dsine, .reso1, .reso2, .reso3], blep realRef w ps dts d = 0)) ∧
  (∀ (b : Bank) (l : Line) (o : Osc) (d ps dts : ℝ) (w : Wave),
    (dualWave realRef b l = false → w = waveA realRef b l → ps = (o.ph.toNat : ℝ) / 2 ^ 32 →
      dts = (o.inc.toNat : ℝ) / 2 ^ 32 → oscSample realRef b l o d =
        min (max (sineOf realRef (warpedPhase realRef w ps d) + blep realRef w ps dts d) (-1)) 1) ∧
    (dualWave realRef b l = true → w = (if o.ph.toNat < 2 ^ 31 then waveA realRef b l else waveB realRef b l) →
      ps = ((2 * o.ph.toNat % 2 ^ 32 : Nat) : ℝ) / 2 ^ 32 → dts = 2 * (o.inc.toNat : ℝ) / 2 ^ 32 →
      oscSample realRef b l o d =
        min (max (sineOf realRef (warpedPhase realRef w ps d) + blep realRef w ps dts d) (-1)) 1)) ∧
  (∀ (w : Wave) (ps dts : ℝ), blep realRef w ps dts 0 = 0) ∧
  (∀ (b : Bank) (l : Line) (o : Osc), dualWave realRef b l = false →
    oscSample realRef b l o 0 = sineOf realRef ((o.ph.toNat : ℝ) / 2 ^ 32)) ∧
  (∀ (b : Bank) (l : Line) (o : Osc), dualWave realRef b l = true →
    oscSample realRef b l o 0 = sineOf realRef (2 * ((o.ph.toNat : ℝ) / 2 ^ 32))) ∧
  (∀ (b : Bank) (l : Line) (o : Osc) (d : Exact),
    (oscSample ref b l o d).toReal = oscSample realRef b l o d.toReal)

/-! ## The voice -/

/-- R232, R224 and R225, for every instance: a Free voice gives 0 and is frozen; any other advances its envelopes when V_CTL = 0,
counts V_CTL modulo ENV_DECIM, sets both increments from FREQ, advances oscillator 1 by its new increment, and keeps V_NOTE,
V_VEL, V_STAMP and V_REL. V_POST becomes what POST answers, in `VoiceOutputMixes`; with the reference POST of log entry 6,
which has no state, it stays, and that last clause is that choice's. -/
def Obligations.VoiceRenderUpdates : Prop :=
  (∀ (N Post : Type) (P : Config.Params N Post) (s : Engine N Post) (v : Voice N Post),
    voiceState P s.active v = .free → voiceRender P s v = (numOf P 0, v)) ∧
  (∀ (N Post : Type) (P : Config.Params N Post) (s : Engine N Post) (v r : Voice N Post),
    voiceState P s.active v ≠ .free → r = (voiceRender P s v).2 →
    (∀ (t : EnvType) (l : Line), voiceEnv r t l =
      if v.ctl = 0 then envAdvance P s.active t l (voiceEnv v t l) else voiceEnv v t l) ∧
    r.ctl = (v.ctl + 1) % P.envDecim ∧ r.note = v.note ∧ r.vel = v.vel ∧ r.stamp = v.stamp ∧ r.rel = v.rel ∧
    (∀ l : Line, (voiceOsc r l).inc = incr P (voiceFreq P s r l)) ∧
    r.osc1.ph.toNat = (v.osc1.ph.toNat + r.osc1.inc.toNat) % 2 ^ 32) ∧
  (∀ (s : RefEngine) (v : RefVoice), (voiceRender ref s v).2.post = v.post)

/-- R229, for every instance: with SYNC on, a wrap of oscillator 1 in this sample leaves oscillator 2 at its increment, as an
advance from phase 0; otherwise oscillator 2 advances from where it was. (The sample from phase 0 is in `VoiceOutputMixes`.) -/
def Obligations.HardSyncResetsOscillatorTwo : Prop :=
  ∀ (N Post : Type) (P : Config.Params N Post) (s : Engine N Post) (v r : Voice N Post),
    voiceState P s.active v ≠ .free → r = (voiceRender P s v).2 →
    (syncOn P s.active = true → 2 ^ 32 ≤ v.osc1.ph.toNat + r.osc1.inc.toNat →
      r.osc2.ph.toNat = r.osc2.inc.toNat % 2 ^ 32) ∧
    ((syncOn P s.active = false ∨ v.osc1.ph.toNat + r.osc1.inc.toNat < 2 ^ 32) →
      r.osc2.ph.toNat = (v.osc2.ph.toNat + r.osc2.inc.toNat) % 2 ^ 32)

/-- R227-R230 and R233, for every instance and every POST: the sample of a sounding voice, from the DCW and DCA amounts of its
advanced envelopes, with hard sync off and on (oscillator 2's sample is taken at phase 0 where oscillator 1 wraps), in each mixer
setting; POST gets the mix, and gives the sample and V_POST. With the reference POST the sample is the mix itself. -/
def Obligations.VoiceOutputMixes : Prop :=
  (∀ (N Post : Type) (P : Config.Params N Post) (s : Engine N Post) (v r : Voice N Post) (d a y : Line → N) (m : N),
    letI := P.num
    voiceState P s.active v ≠ .free → r = (voiceRender P s v).2 →
    (∀ l : Line, d l = P.num.min (P.num.max ((voiceEnv r .dcw l).val
        * (numOf P 1 - numOf P (vsDcw P s.active) * (numOf P 1 - v.vel))
        * (numOf P 1 - numOf P (kfDcw P s.active * (v.note.toNat : ℚ) / 127))
        + numOf P (atDcw P s.active) * s.aftertouch) (numOf P 0)) (numOf P 1)) →
    (∀ l : Line, a l = (voiceEnv r .dca l).val * (numOf P 1 - numOf P (vsDca P s.active) * (numOf P 1 - v.vel))) →
    y .one = oscSample P s.active .one { ph := v.osc1.ph, inc := r.osc1.inc } (d .one) →
    ((syncOn P s.active = false ∨ v.osc1.ph.toNat + r.osc1.inc.toNat < 2 ^ 32) →
      y .two = oscSample P s.active .two { ph := v.osc2.ph, inc := r.osc2.inc } (d .two)) →
    (syncOn P s.active = true → 2 ^ 32 ≤ v.osc1.ph.toNat + r.osc1.inc.toNat →
      y .two = oscSample P s.active .two { ph := 0, inc := r.osc2.inc } (d .two)) →
    (line2On P s.active = false → m = numOf P (oscLevel P s.active .one) * a .one * y .one) →
    (line2On P s.active = true → ringOn P s.active = false → m =
      numOf P (oscLevel P s.active .one) * a .one * y .one + numOf P (oscLevel P s.active .two) * a .two * y .two) →
    (line2On P s.active = true → ringOn P s.active = true → m =
      numOf P (oscLevel P s.active .one) * a .one * y .one * (numOf P (oscLevel P s.active .two) * a .two * y .two)) →
    (voiceRender P s v).1 = (P.post s.active v.post m).1 ∧ r.post = (P.post s.active v.post m).2) ∧
  (∀ (b : Bank) (st : Config.PostState) (m : Exact), ref.post b st m = (m, st))

/-- R237, R158 and R393: an oscillator's sample lies in [-1, 1], a voice's in [-2, 2], and the output of a pool in range is the sum
of its voices' samples on both channels, within 2 for each voice. (R237 holds for the reference POST of log entry 6.) -/
def Obligations.OutputIsBounded : Prop :=
  (∀ (b : Bank) (l : Line) (o : Osc) (d : Exact), -1 ≤ (oscSample ref b l o d).toReal ∧ (oscSample ref b l o d).toReal ≤ 1) ∧
  (∀ (s : RefEngine) (v : RefVoice), VoiceOk v →
    -2 ≤ (voiceRender ref s v).1.toReal ∧ (voiceRender ref s v).1.toReal ≤ 2) ∧
  (∀ s : RefEngine, (∀ v ∈ s.voices, VoiceOk v) →
    (renderVoices ref s).outL.toReal = (s.voices.map fun v => (voiceRender ref s v).1.toReal).sum ∧
    (renderVoices ref s).outR = (renderVoices ref s).outL ∧
    -(2 * (s.voices.length : ℝ)) ≤ (renderVoices ref s).outL.toReal ∧
    (renderVoices ref s).outL.toReal ≤ 2 * (s.voices.length : ℝ))

/-- R236, for every instance: every bit of a voice's status word; RELEASING implies ACTIVE. -/
def Obligations.StatusWordBits : Prop :=
  ∀ (N Post : Type) (P : Config.Params N Post) (b : Bank) (v : Voice N Post),
    (voiceStatus P b v).toNat =
      v.note.toNat + (if voiceState P b v = .free then 0 else 256) + (if voiceState P b v = .releasing then 512 else 0) ∧
    ((voiceStatus P b v).getLsbD 9 = true → (voiceStatus P b v).getLsbD 8 = true)

/-! ## The arpeggiator -/

/-- R341, by NOTE_ON with ARP_ON = 1 (R260): a held key or a full HELD changes nothing; a further key is only appended; the first
key starts the sequencer at step 0, latches STEPLEN(0) with one draw (log entry 5) and fires a note of the buffer at
ARP_FIXED_VEL: the buffer's first note, but for Random, where a second draw chooses it. The allocator has received that note's
event (log entry 16). -/
def Obligations.ArpKeyDownCases : Prop :=
  ∀ (s : State) (n : Note) (vel : Code), arpOn ref s.active = true →
    (n ∈ s.held ∨ s.held.length = 16 → exec (.noteOn n vel) s = .next s) ∧
    (n ∉ s.held → s.held.length ≠ 16 → s.held ≠ [] →
      exec (.noteOn n vel) s = .next { s with held := s.held ++ [n] }) ∧
    (s.held = [] → ∃ t, exec (.noteOn n vel) s = .next t ∧
      t.arpNote ∈ noteBuffer ref s.active [n] ∧
      (arpPattern ref s.active ≠ .random → some t.arpNote = (noteBuffer ref s.active [n])[0]?) ∧
      t = { s with
        held := [n]
        arpRun := true
        arpAcc := .rat 0
        arpStep := 0
        arpIdx := if arpPattern ref s.active = .random then 0 else 1
        arpDir := .plus
        arpLen := stepLength ref s.toEngine 0
        draws := if arpPattern ref s.active = .random then s.draws + 2 else s.draws + 1
        arpNote := t.arpNote
        arpGateOpen := true
        voices := (allocNoteOn ref s.toEngine t.arpNote (.rat 1)).voices
        rrCursor := (allocNoteOn ref s.toEngine t.arpNote (.rat 1)).rrCursor
        events := s.events ++ [.noteOn t.arpNote (.rat 1)] })

/-- R342 and R344, by NOTE_OFF with ARP_ON = 1 (R261): a key that is not held changes nothing; a key among others only leaves HELD;
the last key stops the sequencer, and an open note gets its `Alloc.noteOff` (which is also an event, log entry 16). -/
def Obligations.ArpKeyUpCases : Prop :=
  ∀ (s : State) (n : Note), arpOn ref s.active = true →
    (n ∉ s.held → exec (.noteOff n) s = .next s) ∧
    (n ∈ s.held → (∃ m ∈ s.held, m ≠ n) →
      exec (.noteOff n) s = .next { s with held := s.held.filter fun m => m ≠ n }) ∧
    (n ∈ s.held → (∀ m ∈ s.held, m = n) → exec (.noteOff n) s =
      .next { s with
        held := []
        arpRun := false
        arpGateOpen := false
        voices := if s.arpGateOpen = true then (allocNoteOff ref s.toEngine s.arpNote).voices else s.voices
        events := if s.arpGateOpen = true then s.events ++ [.noteOff s.arpNote] else s.events })

/-- R350, R361 and R4, for every instance: with Up, Down or AsPlayed, fires from ARP_IDX = 0 over an unchanging buffer emit its
notes in order, cyclically, and leave the gate open; each fire is one event the allocator receives (log entry 16). -/
def Obligations.CyclicPatternsWalkTheBuffer : Prop :=
  ∀ (N Post : Type) (P : Config.Params N Post) (s : Engine N Post) (buf : List Note) (k : Nat),
    buf = noteBuffer P s.active s.held → buf ≠ [] → s.arpIdx = 0 →
    (arpPattern P s.active = .up ∨ arpPattern P s.active = .down ∨ arpPattern P s.active = .asPlayed) →
    some ((arpFire P)^[k + 1] s).arpNote = buf[k % buf.length]? ∧ ((arpFire P)^[k + 1] s).arpGateOpen = true ∧
    ((arpFire P)^[k + 1] s).events =
      s.events ++ (List.range (k + 1)).map fun j => .noteOn (buf.getD (j % buf.length) 0) P.arpFixedVel

/-- R351 and R352, for every instance: with PATTERN = UpDown, SELECT plays the clamped index, steps by one inside the buffer and
flips at its ends, storing ARP_IDX and ARP_DIR; with one note it stays on it and leaves ARP_IDX = 1, ARP_DIR = +1. With PATTERN =
Random it plays some index of the buffer whatever the draw, every index being the choice of some draw, and moves neither ARP_IDX
nor ARP_DIR. (That the draw is counted is log entry 5.) -/
def Obligations.PingPongAndRandomSelect : Prop :=
  ∀ (N Post : Type) (P : Config.Params N Post) (s : Engine N Post) (len : Nat),
    (arpPattern P s.active = .upDown → 2 ≤ len →
      (selectStep P s len).1 = min s.arpIdx (len - 1) ∧
      (s.arpDir = .plus → min s.arpIdx (len - 1) + 1 < len →
        (selectStep P s len).2 = { s with arpIdx := min s.arpIdx (len - 1) + 1, arpDir := .plus }) ∧
      (s.arpDir = .plus → min s.arpIdx (len - 1) + 1 = len →
        (selectStep P s len).2 = { s with arpIdx := len - 2, arpDir := .minus }) ∧
      (s.arpDir = .minus → 0 < min s.arpIdx (len - 1) →
        (selectStep P s len).2 = { s with arpIdx := min s.arpIdx (len - 1) - 1, arpDir := .minus }) ∧
      (s.arpDir = .minus → s.arpIdx = 0 →
        (selectStep P s len).2 = { s with arpIdx := 1, arpDir := .plus })) ∧
    (arpPattern P s.active = .upDown →
      (selectStep P s 1).1 = 0 ∧ (selectStep P s 1).2 = { s with arpIdx := 1, arpDir := .plus }) ∧
    (arpPattern P s.active = .random → 1 ≤ len →
      (selectStep P s len).1 < len ∧ (selectStep P s len).2 = { s with draws := s.draws + 1 } ∧
      ∀ i < len, ∃ drawIdx : Nat → Nat, (selectStep { P with drawIdx := drawIdx } s len).1 = i)

/-- R347, for every instance: ARP_TICK where the sequencer stands still, where no step ends and no gate closes, where a gate
closes, and where a step ends: ARP_LEN is taken off ARP_ACC, an open note gets its `Alloc.noteOff`, ARP_STEP moves on, STEPLEN is
drawn, SELECT chooses a note of the buffer and stores its ARP_IDX and ARP_DIR, and that note gets its `Alloc.noteOn` (R345); its
gate stays open, or closes at once where it is already over. The comparisons are those of the reals, for the executed instance
in range. (The draw counted at a step end is log entry 5, the events received log entry 16.) -/
def Obligations.ArpTickCases : Prop :=
  (∀ (N Post : Type) (P : Config.Params N Post) (s : Engine N Post),
    letI := P.num
    (s.arpRun = false → arpTick P s = s) ∧
    (s.arpRun = true → stepOver P s = false →
      (s.arpGateOpen = false ∨ arpGateFraction P s.active = 1 ∨ gateOver P s = false) →
      arpTick P s = { s with arpAcc := s.arpAcc + numOf P 1 }) ∧
    (s.arpRun = true → stepOver P s = false → s.arpGateOpen = true → arpGateFraction P s.active < 1 →
      gateOver P s = true →
      arpTick P s =
        { s with
          arpAcc := s.arpAcc + numOf P 1
          arpGateOpen := false
          voices := (allocNoteOff P s s.arpNote).voices
          events := s.events ++ [.noteOff s.arpNote] }) ∧
    (s.arpRun = true → stepOver P s = true → s.held ≠ [] →
      ∀ (closed chosen fired : Engine N Post) (note : Note),
        closed = (if s.arpGateOpen = true then allocNoteOff P s s.arpNote else s) →
        chosen = (selectStep P { s with draws := s.draws + 1 } (noteBuffer P s.active s.held).length).2 →
        (noteBuffer P s.active s.held)[(selectStep P { s with draws := s.draws + 1 }
          (noteBuffer P s.active s.held).length).1]? = some note →
        fired =
          { allocNoteOn P closed note P.arpFixedVel with
            arpAcc := s.arpAcc - s.arpLen
            arpStep := s.arpStep + 1
            arpLen := stepLength P s (s.arpStep + 1)
            arpIdx := chosen.arpIdx
            arpDir := chosen.arpDir
            draws := chosen.draws
            arpNote := note
            arpGateOpen := true } →
        ((arpGateFraction P s.active = 1 ∨ gateOver P fired = false) →
          arpTick P s = { fired with arpAcc := s.arpAcc - s.arpLen + numOf P 1 }) ∧
        (arpGateFraction P s.active < 1 → gateOver P fired = true →
          arpTick P s =
            { allocNoteOff P fired note with arpAcc := s.arpAcc - s.arpLen + numOf P 1, arpGateOpen := false })) ∧
    (s.held ≠ [] → ∃ note, (noteBuffer P s.active s.held)[(selectStep P { s with draws := s.draws + 1 }
      (noteBuffer P s.active s.held).length).1]? = some note)) ∧
  (∀ s : Engine ℝ Config.PostState,
    (stepOver realRef s = true ↔ s.arpLen ≤ s.arpAcc) ∧
    (gateOver realRef s = true ↔ (arpGateFraction realRef s.active : ℝ) * s.arpLen ≤ s.arpAcc)) ∧
  (∀ s : RefEngine, ArpLengthsOk s →
    (stepOver ref s = true ↔ s.arpLen.toReal ≤ s.arpAcc.toReal) ∧
    (gateOver ref s = true ↔ (arpGateFraction ref s.active : ℝ) * s.arpLen.toReal ≤ s.arpAcc.toReal))

/-- R358, over ℝ: a note that fires with ARP_ACC = a sounds for ceil(P.gate * ARP_LEN - a) samples: that many ticks leave it open,
the next one closes it. The premise that the gate ends a sample before the step keeps the step end out. -/
def Obligations.GateLastsItsFraction : Prop :=
  ∀ (s : Engine ℝ Config.PostState) (gate : ℝ) (n : Nat), gate = arpGateFraction realRef s.active → s.arpRun = true →
    s.arpGateOpen = true → gate < 1 → s.arpAcc ≤ gate * s.arpLen → gate * s.arpLen + 1 ≤ s.arpLen →
    n = ⌈gate * s.arpLen - s.arpAcc⌉.toNat →
    (∀ m ≤ n, (arpTick realRef)^[m] s = { s with arpAcc := s.arpAcc + (m : ℝ) }) ∧
    ((arpTick realRef)^[n + 1] s).arpGateOpen = false ∧
    (arpTick realRef)^[n + 1] s =
      { s with
        arpAcc := s.arpAcc + (n : ℝ) + 1
        arpGateOpen := false
        voices := (allocNoteOff realRef s s.arpNote).voices
        events := s.events ++ [.noteOff s.arpNote] }

/-- R355-R357 and R14, over ℝ: whatever real u of [-1, 1] the draw is, the step length is BASE times the swing factor of the step's
parity times 1 + JITTER * u, so at least a third of BASE; the draws of the instance are such reals, with no jitter the draw has no
effect, and the executed instance's step length denotes the real one. -/
def Obligations.StepLengthBounds : Prop :=
  ∀ (s : Engine ℝ Config.PostState) (k : Nat), 0 ≤ s.arpBase →
    (∀ u : ℝ, -1 ≤ u → u ≤ 1 →
      stepLength { realRef with drawJit := fun _ => u } s k =
        s.arpBase * (if k % 2 = 0 then 1 + arpSwing realRef s.active / 2 else 1 - arpSwing realRef s.active / 2)
          * (1 + arpJitter realRef s.active * u)) ∧
    (∃ u : ℝ, -1 ≤ u ∧ u ≤ 1 ∧ stepLength realRef s k = stepLength { realRef with drawJit := fun _ => u } s k) ∧
    0 ≤ arpSwing realRef s.active ∧ arpSwing realRef s.active ≤ 2 / 3 ∧ 0 ≤ arpJitter realRef s.active ∧
    arpJitter realRef s.active ≤ 1 / 2 ∧ s.arpBase * (2 / 3) * (1 / 2) ≤ stepLength realRef s k ∧
    (arpJitter realRef s.active = 0 → ∀ draws : Nat,
      stepLength realRef { s with draws := draws } k = stepLength realRef s k) ∧
    (∀ x : RefEngine, realEngine x = s → (stepLength ref x k).toReal = stepLength realRef s k)

/-- R348, for every instance: the buffer is HELD in ascending order, or in press order for AsPlayed, moved up by 0 to octRange - 1
octaves, one octave after the other, each octave without its notes above 127, duplicates kept; for Down that list reversed. It
is empty only where nothing is held. The rule's examples. -/
def Obligations.NoteBufferContents : Prop :=
  (∀ (N Post : Type) (P : Config.Params N Post) (b : Bank) (held : List Note), ∃ base : List Note,
    base.Perm held ∧ (arpPattern P b = .asPlayed → base = held) ∧
    (arpPattern P b ≠ .asPlayed → base.Pairwise fun x y => x.toNat ≤ y.toNat) ∧
    (arpPattern P b ≠ .down → (noteBuffer P b held).map BitVec.toNat =
      (List.range (octRange P b)).flatMap fun o =>
        (base.map fun x : Note => x.toNat + 12 * o).filter fun x => decide (x ≤ 127)) ∧
    (arpPattern P b = .down → (noteBuffer P b held).map BitVec.toNat =
      ((List.range (octRange P b)).flatMap fun o =>
        (base.map fun x : Note => x.toNat + 12 * o).filter fun x => decide (x ≤ 127)).reverse) ∧
    (held ≠ [] → noteBuffer P b held ≠ [])) ∧
  (∀ (N Post : Type) (P : Config.Params N Post) (b : Bank), arpPattern P b = .up → octRange P b = 2 →
    noteBuffer P b [67, 60, 64] = [60, 64, 67, 72, 76, 79] ∧ noteBuffer P b [60, 72] = [60, 72, 72, 84]) ∧
  (∀ (N Post : Type) (P : Config.Params N Post) (b : Bank), arpPattern P b = .asPlayed → octRange P b = 1 →
    noteBuffer P b [67, 60, 64] = [67, 60, 64])

/-! ## The parameter bank and the command protocol -/

/-- R300, R46 and R78: PARAM_WRITE to an unmapped address changes nothing; to a mapped one it stores LEGAL of the word in SHADOW, leaves
every other register and everything else alone, and a second such write changes nothing more. The addresses are those of
R32-R45. -/
def Obligations.ParamWriteEffect : Prop :=
  (∀ (s : State) (a : ParamAddr) (d : ParamWord),
    (a.toNat < 0x0C0 ∧ 0x0B ≤ a.toNat % 32) ∨ (0x0C0 ≤ a.toNat ∧ a.toNat ≤ 0x0FF) ∨
      (0x10C ≤ a.toNat ∧ a.toNat ≤ 0x10F) ∨ (0x111 ≤ a.toNat ∧ a.toNat ≤ 0x11F) ∨
      (0x125 ≤ a.toNat ∧ a.toNat ≤ 0x17F) ∨ 0x200 ≤ a.toNat →
    exec (.paramWrite a d) s = .next s) ∧
  (∀ (s : State) (r : Reg) (d : ParamWord), Bank.wf ref.pool s.shadow = true →
    ∃ t, exec (.paramWrite (BitVec.ofNat 10 (regAddr r)) d) s = .next t ∧ t = { s with shadow := t.shadow } ∧
      bankRead ref.pool t.shadow r = legal ref.pool r (bankRead ref.pool s.shadow r) d ∧
      (∀ r' ≠ r, bankRead ref.pool t.shadow r' = bankRead ref.pool s.shadow r') ∧
      exec (.paramWrite (BitVec.ofNat 10 (regAddr r)) d) t = .next t) ∧
  ((envBase .dcw .one, envBase .dcw .two, envBase .dca .one, envBase .dca .two, envBase .pitch .one, envBase .pitch .two) =
      (0x000, 0x020, 0x040, 0x060, 0x080, 0x0A0) ∧
    (∀ (t : EnvType) (l : Line) (k : Fin 8), regAddr (.envStage t l k) = envBase t l + k.val) ∧
    (∀ (t : EnvType) (l : Line), regAddr (.envSustain t l) = envBase t l + 0x08 ∧
      regAddr (.envEnd t l) = envBase t l + 0x09 ∧ regAddr (.envInit t l) = envBase t l + 0x0A) ∧
    regAddr (.oscCfg .one) = 0x100 ∧ regAddr (.oscCfg .two) = 0x101 ∧ regAddr (.oscLevel .one) = 0x102 ∧
    regAddr (.oscLevel .two) = 0x103 ∧ regAddr .mixCfg = 0x104 ∧ regAddr (.detune .one) = 0x105 ∧
    regAddr (.detune .two) = 0x106 ∧ regAddr .velSens = 0x107 ∧ regAddr .keyFollow = 0x108 ∧
    regAddr .modMatrix = 0x109 ∧ regAddr .vibrato = 0x10A ∧ regAddr .pitchDepth = 0x10B ∧ regAddr .sysCfg = 0x110 ∧
    regAddr .arpCtl = 0x120 ∧ regAddr .arpTempo = 0x121 ∧ regAddr .arpGate = 0x122 ∧ regAddr .arpSwing = 0x123 ∧
    regAddr .arpJitter = 0x124 ∧ ∀ i : Fin 128, regAddr (.efx i) = 0x180 + i.val)

/-- R31 and R33-R44, for every instance: every field of a bank as the engine decodes it, from the word of its register; and
`beats` and BASE of R353 and R354. (Codes that LEGAL never stores are left out: log entry 8.) -/
def Obligations.ParameterFieldsDecode : Prop :=
  ∀ (N Post : Type) (P : Config.Params N Post) (b : Bank) (word : Reg → Nat),
    (∀ r : Reg, word r = (bankRead P.pool b r).toNat) →
    (∀ (t : EnvType) (l : Line),
      (∀ k : Fin 8, (stageRate P b t l k).toNat = word (.envStage t l k) % 2 ^ 16 ∧
        (stageLevel P b t l k).toNat = word (.envStage t l k) / 2 ^ 16) ∧
      (word (.envSustain t l) % 16 = 15 → sustainPoint P b t l = none) ∧
      (∀ k : Fin 8, word (.envSustain t l) % 16 = k.val → sustainPoint P b t l = some k) ∧
      (∀ k : Fin 8, word (.envEnd t l) % 16 = k.val → endPoint P b t l = k) ∧
      envInitial P b t l = (min (word (.envInit t l) % 2 ^ 16) 0x8000 : Nat) / 32768) ∧
    (∀ l : Line,
      (∀ p ∈ [(0, Wave.saw), (1, .square), (2, .pulse), (3, .dsine), (4, .reso1), (5, .reso2), (6, .reso3)],
        (word (.oscCfg l) % 8 = p.1 → waveA P b l = p.2) ∧ (word (.oscCfg l) / 8 % 8 = p.1 → waveB P b l = p.2)) ∧
      (dualWave P b l = true ↔ word (.oscCfg l) / 64 % 2 = 1) ∧
      oscLevel P b l = (min (word (.oscLevel l) % 2 ^ 16) 0x8000 : Nat) / 32768 ∧
      (word (.detune l) % 2 = 0 → oscDetune P b l =
        ((word (.detune l) / 2 ^ 16 : Nat) - (if 2 ^ 31 ≤ word (.detune l) then 2 ^ 16 else 0)) / 256) ∧
      (word (.detune l) % 2 = 1 → oscDetune P b l = (if word (.detune l) / 2 % 2 = 1 then -1 else 1)
        * (12 * (word (.detune l) / 4 % 4 : Nat) + (word (.detune l) / 16 % 16 : Nat)
          + (word (.detune l) / 256 % 64 : Nat) / 60))) ∧
    ((syncOn P b = true ↔ word .mixCfg % 2 = 1) ∧ (ringOn P b = true ↔ word .mixCfg / 2 % 2 = 1) ∧
      (line2On P b = true ↔ word .mixCfg / 4 % 2 = 1)) ∧
    (vsDca P b = (min (word .velSens % 2 ^ 16) 0x8000 : Nat) / 32768 ∧
      vsDcw P b = (min (word .velSens / 2 ^ 16) 0x8000 : Nat) / 32768 ∧
      kfDcw P b = (min (word .keyFollow % 2 ^ 16) 0x8000 : Nat) / 32768 ∧
      atDcw P b = (min (word .modMatrix % 2 ^ 16) 0x8000 : Nat) / 32768 ∧
      wheelVib P b = (word .modMatrix / 2 ^ 16 : Nat) / 256 ∧ vibDepth P b = (word .vibrato % 2 ^ 16 : Nat) / 256 ∧
      penvDepth P b = ((word .pitchDepth % 2 ^ 16 : Nat)
        - (if 2 ^ 15 ≤ word .pitchDepth % 2 ^ 16 then 2 ^ 16 else 0)) / 256) ∧
    (voiceLimit P b = word .sysCfg % 256 ∧ oversampling P b = word .sysCfg / 256 % 4 ∧
      oversamplingFactor P b = 2 ^ (word .sysCfg / 256 % 4) ∧
      (fastMode P b = true ↔ word .sysCfg / 1024 % 2 = 1) ∧ (roundRobinSteal P b = true ↔ word .sysCfg / 2048 % 2 = 1)) ∧
    ((arpOn P b = true ↔ word .arpCtl % 2 = 1) ∧
      (∀ p ∈ [(0, Pattern.up), (1, .down), (2, .upDown), (3, .random), (4, .asPlayed)],
        word .arpCtl / 2 % 8 = p.1 → arpPattern P b = p.2) ∧
      octRange P b = word .arpCtl / 16 % 4 + 1 ∧ arpDivision P b = word .arpCtl / 64 % 8 ∧
      arpBpm P b = (word .arpTempo % 2 ^ 16 : Nat) / 16 ∧
      arpGateFraction P b = (min (word .arpGate % 2 ^ 16) 0x8000 : Nat) / 32768 ∧
      arpSwing P b = P.num.min (numOf P ((min (word .arpSwing % 2 ^ 16) 0x8000 : Nat) / 32768)) P.swingMax ∧
      arpJitter P b = P.num.mul (numOf P ((min (word .arpJitter % 2 ^ 16) 0x8000 : Nat) / 32768)) P.jitterMax) ∧
    ((List.range 8).map beats = [1, 1 / 2, 1 / 4, 1 / 8, 2 / 3, 1 / 3, 1 / 6, 1 / 12] ∧
      baseLength P b = numOf P ((P.fs : ℚ) * 60 / arpBpm P b * beats (arpDivision P b)))

/-- R306: the number every field of every register stores, and reserved bits as 0, for every POOL. -/
def Obligations.LegalFields : Prop :=
  ∀ (pool : Nat) (old d : ParamWord), 1 ≤ pool → pool ≤ 255 →
    (∀ (t : EnvType) (l : Line) (k : Fin 8), (legal pool (.envStage t l k) old d).toNat =
      min (d.toNat / 2 ^ 16) 0x8000 * 2 ^ 16 + min (d.toNat % 2 ^ 16) 0x8000) ∧
    (∀ (t : EnvType) (l : Line), (legal pool (.envSustain t l) old d).toNat =
      if d.toNat % 16 ≤ 7 ∨ d.toNat % 16 = 15 then d.toNat % 16 else old.toNat % 16) ∧
    (∀ (t : EnvType) (l : Line), (legal pool (.envEnd t l) old d).toNat =
      if d.toNat % 16 ≤ 7 then d.toNat % 16 else old.toNat % 16) ∧
    (∀ r : Reg, ((∃ t l, r = .envInit t l) ∨ (∃ l, r = .oscLevel l) ∨ r = .keyFollow ∨ r = .arpGate ∨ r = .arpSwing ∨
      r = .arpJitter) → (legal pool r old d).toNat = min (d.toNat % 2 ^ 16) 0x8000) ∧
    (∀ l : Line, (legal pool (.oscCfg l) old d).toNat =
      min (d.toNat % 8) 6 + min (d.toNat / 8 % 8) 6 * 8 + d.toNat / 64 % 2 * 64) ∧
    (legal pool .mixCfg old d).toNat = d.toNat % 8 ∧
    (∀ l : Line, (legal pool (.detune l) old d).toNat =
      d.toNat % 16 + min (d.toNat / 16 % 16) 11 * 16 + min (d.toNat / 256 % 64) 60 * 256 + d.toNat / 2 ^ 16 * 2 ^ 16) ∧
    (legal pool .velSens old d).toNat = min (d.toNat / 2 ^ 16) 0x8000 * 2 ^ 16 + min (d.toNat % 2 ^ 16) 0x8000 ∧
    (legal pool .modMatrix old d).toNat = d.toNat / 2 ^ 16 * 2 ^ 16 + min (d.toNat % 2 ^ 16) 0x8000 ∧
    (legal pool .vibrato old d).toNat = d.toNat % 2 ^ 16 ∧ (legal pool .pitchDepth old d).toNat = d.toNat % 2 ^ 16 ∧
    (legal pool .sysCfg old d).toNat = min (max (d.toNat % 256) 1) pool + d.toNat / 256 % 16 * 256 ∧
    (legal pool .arpCtl old d).toNat = d.toNat % 2 + min (d.toNat / 2 % 8) 4 * 2 + d.toNat / 16 % 32 * 16 ∧
    (legal pool .arpTempo old d).toNat = min (max (d.toNat % 2 ^ 16) 320) 4800 ∧
    (∀ i : Fin 128, legal pool (.efx i) old d = d) ∧
    (∀ r : Reg, legalWord pool r old = true → legalWord pool r (legal pool r old d) = true)

/-- R301: SNAP_PUBLISH copies SHADOW to PENDING, sets PENDING_VALID and changes nothing else, whatever was pending; what SHADOW
becomes later does not change it, and of two publishes the second counts (R82). -/
def Obligations.SnapPublishCopies : Prop :=
  (∀ s : State, exec .snapPublish s = .next { s with pending := s.shadow, pendingValid := true }) ∧
  (∀ (s t u : State) (a : ParamAddr) (d : ParamWord), exec .snapPublish s = .next t →
    exec (.paramWrite a d) t = .next u →
    u.pending = s.shadow ∧ u.pendingValid = true ∧
    exec .snapPublish u = .next { s with shadow := u.shadow, pending := u.shadow, pendingValid := true })

/-- R302: CMD_PUSH appends its record, whatever the record is, where there is room, and is dropped where there is none. -/
def Obligations.CmdPushAppendsOrDrops : Prop :=
  (∀ (s : State) (r : Rec), s.cmdq.length < 64 → exec (.cmdPush r) s = .next { s with cmdq := s.cmdq ++ [r] }) ∧
  (∀ (s : State) (r : Rec), 64 ≤ s.cmdq.length → exec (.cmdPush r) s = .next s) ∧
  (∀ w : OpWord, (w.extractLsb' 60 4).toNat = 10 → decodeWord w = .cmdPush (w.extractLsb' 0 48))

/-- R303 and R359, for every instance: an install with nothing pending changes nothing; otherwise ACTIVE becomes PENDING and
PENDING_VALID clears, and only where ARP_ON falls from 1 to 0 HELD empties, the sequencer stops and an open note gets its
`Alloc.noteOff` under the new bank (an event, log entry 16). -/
def Obligations.InstallCopiesPending : Prop :=
  ∀ (N Post : Type) (P : Config.Params N Post) (s : Engine N Post),
    (s.pendingValid = false → install P s = s) ∧
    (s.pendingValid = true → (arpOn P s.active = false ∨ arpOn P s.pending = true) →
      install P s = { s with active := s.pending, pendingValid := false }) ∧
    (s.pendingValid = true → arpOn P s.active = true → arpOn P s.pending = false →
      install P s =
        { s with
          active := s.pending
          pendingValid := false
          held := []
          arpRun := false
          arpGateOpen := false
          voices := if s.arpGateOpen = true then (allocNoteOff P { s with active := s.pending } s.arpNote).voices
            else s.voices
          events := if s.arpGateOpen = true then s.events ++ [.noteOff s.arpNote] else s.events })

/-- R304, R305 and R307: DRAIN empties CMDQ and changes only ACTIVE, applying the records in push order; pushing K records into an empty
FIFO keeps the first 64 and drops the rest, and the drain then applies exactly those. -/
def Obligations.DrainAppliesInOrder : Prop :=
  (∀ s : RefEngine, drain ref s = { s with cmdq := [], active := (drain ref s).active }) ∧
  (∀ s : RefEngine, s.cmdq = [] → drain ref s = s) ∧
  (∀ (s : State) (r : Rec) (rest : List Rec), s.cmdq = r :: rest →
    ∃ t, exec (decodeRecord r) { s with cmdq := rest } = .next t ∧ t.cmdq = rest ∧
      drain ref s.toEngine = drain ref t.toEngine) ∧
  (∀ (s : State) (records : List Rec), s.cmdq = [] →
    records.foldl (fun o r => match o with
        | Host.Outcome.next t => exec (.cmdPush r) t
        | other => other) (.next s) = .next { s with cmdq := records.take 64 }) ∧
  (∀ (s : RefEngine) (records : List Rec), (drain ref { s with cmdq := records }).active =
    (records.foldl (fun s r => applyRecord ref r s) s).active)

/-- R310-R312: a stage record with LINE 1 or 2 and INDEX 0 to 7 stores its clamped RATE and LEVEL in that stage of ACTIVE and changes
nothing else; any other is ignored (R115). That ACTIVE has a canonical form, taken as a premise, and keeps it, is the model's choice of
how a bank is held: log entry 7. -/
def Obligations.StageRecordsWriteOneStage : Prop :=
  ∀ (s : State) (line : BitVec 2) (index : BitVec 4) (rate level : Code), Bank.wf ref.pool s.active = true →
    ∀ p ∈ [(Instr.dcwStage line index rate level, EnvType.dcw), (.dcaStage line index rate level, .dca),
        (.pitchStage line index rate level, .pitch)],
      (∀ (l : Line) (k : Fin 8), line.toNat = lineIndex l + 1 → index.toNat = k.val →
        ∃ t, exec p.1 s = .next t ∧ t = { s with active := t.active } ∧
          regAddr (.envStage p.2 l k) = 0x20 * (2 * tcode p.2 + lineIndex l) + k.val ∧
          (bankRead ref.pool t.active (.envStage p.2 l k)).toNat =
            min level.toNat 0x8000 * 2 ^ 16 + min rate.toNat 0x8000 ∧
          (∀ r ≠ .envStage p.2 l k, bankRead ref.pool t.active r = bankRead ref.pool s.active r) ∧
          Bank.wf ref.pool t.active = true) ∧
      (line.toNat = 0 ∨ line.toNat = 3 ∨ 8 ≤ index.toNat → exec p.1 s = .next s)

/-- R313-R318: a sustain record with LINE 1 or 2 and INDEX 0 to 7 or 15, and an end record with INDEX 0 to 7, store INDEX in that point
of ACTIVE and change nothing else; any other is ignored (R115). That ACTIVE has a canonical form, taken as a premise, and keeps it, is
the model's choice of how a bank is held: log entry 7. -/
def Obligations.PointRecordsWriteOnePoint : Prop :=
  ∀ (s : State) (line : BitVec 2) (index : BitVec 4), Bank.wf ref.pool s.active = true →
    (∀ p ∈ [(Instr.dcwSustain line index, EnvType.dcw), (.dcaSustain line index, .dca),
        (.pitchSustain line index, .pitch)],
      (∀ l : Line, line.toNat = lineIndex l + 1 → index.toNat ≤ 7 ∨ index.toNat = 15 →
        ∃ t, exec p.1 s = .next t ∧ t = { s with active := t.active } ∧
          regAddr (.envSustain p.2 l) = 0x20 * (2 * tcode p.2 + lineIndex l) + 8 ∧
          (bankRead ref.pool t.active (.envSustain p.2 l)).toNat = index.toNat ∧
          sustainPoint ref t.active p.2 l = (if h : index.toNat < 8 then some ⟨index.toNat, h⟩ else none) ∧
          (∀ r ≠ .envSustain p.2 l, bankRead ref.pool t.active r = bankRead ref.pool s.active r) ∧
          Bank.wf ref.pool t.active = true) ∧
      (line.toNat = 0 ∨ line.toNat = 3 ∨ (8 ≤ index.toNat ∧ index.toNat ≤ 14) → exec p.1 s = .next s)) ∧
    (∀ p ∈ [(Instr.dcwEnd line index, EnvType.dcw), (.dcaEnd line index, .dca), (.pitchEnd line index, .pitch)],
      (∀ l : Line, line.toNat = lineIndex l + 1 → index.toNat ≤ 7 →
        ∃ t, exec p.1 s = .next t ∧ t = { s with active := t.active } ∧
          regAddr (.envEnd p.2 l) = 0x20 * (2 * tcode p.2 + lineIndex l) + 9 ∧
          (bankRead ref.pool t.active (.envEnd p.2 l)).toNat = index.toNat ∧
          (endPoint ref t.active p.2 l).val = index.toNat ∧
          (∀ r ≠ .envEnd p.2 l, bankRead ref.pool t.active r = bankRead ref.pool s.active r) ∧
          Bank.wf ref.pool t.active = true) ∧
      (line.toNat = 0 ∨ line.toNat = 3 ∨ 8 ≤ index.toNat → exec p.1 s = .next s))

/-- R305, R309, R319 and R78: applying a record is executing what it decodes to; a valid record changes in ACTIVE the one register
that its TYPE, LINE and INDEX name, and nothing else, an invalid one nothing at all (R115), and applying a record again changes
nothing. -/
def Obligations.ApplyIsExecAndIdempotent : Prop :=
  (∀ (r : Rec) (s : State), exec (decodeRecord r) s = .next (s.onEngine (applyRecord ref r))) ∧
  (∀ (r : Rec) (s t : RefEngine), Bank.wf ref.pool s.active = true → t = applyRecord ref r s →
    applyRecord ref r t = t ∧ t = { s with active := t.active } ∧
    (∀ (e : EnvType) (l : Line), lineOfCode (Rec.line r) = some l →
      ((Rec.type r).toNat = tcode e → (Rec.index r).toNat ≤ 7 →
        ∀ g ≠ .envStage e l (Fin.ofNat 8 (Rec.index r).toNat), bankRead ref.pool t.active g = bankRead ref.pool s.active g) ∧
      ((Rec.type r).toNat = 3 + tcode e → ((Rec.index r).toNat ≤ 7 ∨ (Rec.index r).toNat = 15) →
        ∀ g ≠ .envSustain e l, bankRead ref.pool t.active g = bankRead ref.pool s.active g) ∧
      ((Rec.type r).toNat = 6 + tcode e → (Rec.index r).toNat ≤ 7 →
        ∀ g ≠ .envEnd e l, bankRead ref.pool t.active g = bankRead ref.pool s.active g)) ∧
    (lineOfCode (Rec.line r) = none → t = s) ∧
    ((Rec.type r).toNat ≤ 2 → 8 ≤ (Rec.index r).toNat → t = s) ∧
    (3 ≤ (Rec.type r).toNat → (Rec.type r).toNat ≤ 5 → 8 ≤ (Rec.index r).toNat → (Rec.index r).toNat ≤ 14 → t = s) ∧
    (6 ≤ (Rec.type r).toNat → (Rec.type r).toNat ≤ 8 → 8 ≤ (Rec.index r).toNat → t = s) ∧
    (9 ≤ (Rec.type r).toNat → t = s)) ∧
  (lineOfCode 1#2 = some .one ∧ lineOfCode 2#2 = some .two ∧ lineOfCode 0#2 = none ∧ lineOfCode 3#2 = none)

/-! ## The sample clock -/

/-- R390: TICK runs COUNT sample steps in a row; it leaves SHADOW, PENDING, the latches and the words still to come alone, and only adds
to the events received (log entry 16); two TICKs are one of the sum, and TICK 0 changes nothing. -/
def Obligations.TickRunsSampleSteps : Prop :=
  (∀ (c : BitVec 32) (s : State), exec (.tick c) s = .next (s.onEngine ((sampleStep ref)^[c.toNat]))) ∧
  (∀ s : State, exec (.tick 0) s = .next s) ∧
  (∀ (c d : BitVec 32) (s t : State), c.toNat + d.toNat < 2 ^ 32 → exec (.tick c) s = .next t →
    exec (.tick d) t = exec (.tick (c + d)) s) ∧
  (∀ (c : BitVec 32) (s t : State), exec (.tick c) s = .next t →
    t.shadow = s.shadow ∧ t.pending = s.pending ∧ t.modWheel = s.modWheel ∧ t.aftertouch = s.aftertouch ∧
    t.pitchBend = s.pitchBend ∧ t.lfoIn = s.lfoIn ∧ t.stimulus = s.stimulus ∧ ∃ new, t.events = s.events ++ new)

/-- R391 and R393: a sample step is, in order, the boundary tasks where TIME is a multiple of 64, the arpeggiator's tick, the render of every
slot, the output latch and TIME + 1. Where the arpeggiator stands still and every voice is Free, off a boundary, only TIME and the outputs
change, and the outputs are 0. -/
def Obligations.SampleStepOrder : Prop :=
  (∀ s a : RefEngine, (s.time.toNat % 64 = 0 → a = arpTick ref (blockBoundary ref s)) →
    (s.time.toNat % 64 ≠ 0 → a = arpTick ref s) →
    sampleStep ref s =
      { a with
        voices := a.voices.map fun v => (voiceRender ref a v).2
        outL := (sampleStep ref s).outL
        outR := (sampleStep ref s).outL
        time := s.time + 1 } ∧
    (sampleStep ref s).outL.toReal = (a.voices.map fun v => (voiceRender ref a v).1.toReal).sum) ∧
  (∀ s : RefEngine, s.time.toNat % 64 ≠ 0 → s.arpRun = false → (∀ v ∈ s.voices, voiceState ref s.active v = .free) →
    sampleStep ref s = { s with outL := .rat 0, outR := .rat 0, time := s.time + 1 })

/-- R392, R303 and R308: at a block boundary the snapshot is installed first, the FIFO is drained on top of it, and ARP_BASE is computed
from the bank that results. All the rest is as INSTALL leaves it: where ARP_ON falls, ARP_DISABLE has run (`InstallCopiesPending`), and
the drain and the update of ARP_BASE change nothing more. (The events received, which INSTALL may add to, are log entry 16.) -/
def Obligations.BoundaryOrder : Prop :=
  ∀ s t : RefEngine, t = blockBoundary ref s →
    t = { install ref s with active := t.active, cmdq := [], arpBase := t.arpBase } ∧
    (s.pendingValid = true → t.active =
      (s.cmdq.foldl (fun s r => applyRecord ref r s) { s with active := s.pending }).active) ∧
    (s.pendingValid = false → t.active = (s.cmdq.foldl (fun s r => applyRecord ref r s) s).active) ∧
    t.cmdq = [] ∧ t.pendingValid = false ∧
    t.arpBase = .rat (48000 * 60 / arpBpm ref t.active * beats (arpDivision ref t.active)) ∧
    t.shadow = s.shadow ∧ t.pending = s.pending ∧ t.time = s.time

/-! ## Whole-machine rules -/

/-- R80, R417 and R418, with R436: the host's operations change nothing the engine reads inside a block, and inside a block no operation
of the engine can tell apart two states that differ only in SHADOW, PENDING, PENDING_VALID and CMDQ: what it does to the rest of the state
is the same. -/
def Obligations.HostIsInvisibleInsideABlock : Prop :=
  (∀ (i : Instr) (s t : State), IsHostOp i → exec i s = .next t → engineView t = engineView s) ∧
  (∀ (i : Instr) (s s' t t' : State), ¬IsHostOp i → i.isRecord = false →
    (∀ c, i = .tick c → c.toNat = 0 ∨ (s.time.toNat % 64 ≠ 0 ∧ s.time.toNat % 64 + c.toNat ≤ 64)) →
    engineView s = engineView s' → exec i s = .next t → exec i s' = .next t' →
    engineView t = engineView t' ∧ t.shadow = s.shadow ∧ t.pending = s.pending ∧ t.pendingValid = s.pendingValid ∧
      t.cmdq = s.cmdq)

/-- R6, R9, R11 and R432: the executed instance is the block over ℝ. `exec` is the effect that every instance's engine gives the
instruction, and from any state in range the state that `exec` reaches denotes exactly the one that the reference instance over
the reals reaches from what the first denotes: samples, envelope values, step lengths, events and all. Over a whole run from
power-on the outputs and the events are those of the real block. (The draws of R14 are the same free values in both: log
entry 5.) -/
def Obligations.RunsAsTheRealBlock : Prop :=
  (∀ (i : Instr) (s : State), exec i s = .next (s.onEngine (engineExec ref i))) ∧
  (∀ (i : Instr) (s : RefEngine), Inv s → realEngine (engineExec ref i s) = engineExec realRef i (realEngine s)) ∧
  (∀ program : List OpWord, realEngine (engineRun ref program) = engineRun realRef program)

/-- Every step keeps the ranges of 10_state.md: from any state in range, reached or not, the next state is in range. -/
def Obligations.StepKeepsInv : Prop :=
  ∀ s t : State, Inv s.toEngine → step s = .next t → Inv t.toEngine

/-- The reset state is in range. -/
def Obligations.ResetInv : Prop := Inv State.reset.toEngine

/-- R431, R432 and R58: what reset leaves in every element the rules give a value for, that every slot is Free, and what reset leaves in
the elements that depend on the parameters, for every instance. -/
def Obligations.ResetValues : Prop :=
  (State.reset.time = 0 ∧ State.reset.rrCursor = 0 ∧ State.reset.modWheel = .rat 0 ∧ State.reset.aftertouch = .rat 0 ∧
    State.reset.pitchBend = .rat 0 ∧ State.reset.lfoIn = .rat 0 ∧ State.reset.cmdq = [] ∧ State.reset.outL = .rat 0 ∧
    State.reset.outR = .rat 0 ∧ State.reset.pendingValid = false ∧ State.reset.held = [] ∧
    State.reset.arpRun = false ∧ State.reset.arpIdx = 0 ∧ State.reset.arpDir = .plus ∧ State.reset.arpAcc = .rat 0 ∧
    State.reset.arpStep = 0 ∧ State.reset.arpLen = .rat 6000 ∧ State.reset.arpBase = .rat 6000 ∧
    State.reset.arpNote = 0 ∧ State.reset.arpGateOpen = false ∧ State.reset.voices.length = 8) ∧
  (∀ v ∈ State.reset.voices, voiceState ref State.reset.active v = .free ∧ v.note = 0 ∧ v.vel = .rat 0 ∧ v.stamp = 0 ∧
    v.rel = false ∧ v.ctl = 0 ∧ v.post = ref.postInit ∧ (∀ l : Line, voiceOsc v l = { ph := 0, inc := 0 }) ∧
    ∀ (t : EnvType) (l : Line), voiceEnv v t l =
      { stage := 0, active := false, rel := false, hold := false, val := .rat 0, v0 := .rat 0, tgt := .rat 0
        dur := 1, k := 0 }) ∧
  (∀ (N Post : Type) (P : Config.Params N Post) (s : Engine N Post), s = Engine.reset P →
    s.arpLen = numOf P ((P.fs : ℚ) * 60 / 120 * (1 / 4)) ∧ s.arpBase = s.arpLen ∧ s.voices.length = P.pool ∧
    (∀ v ∈ s.voices, v.post = P.postInit ∧ voiceState P s.active v = .free) ∧
    ∀ b ∈ [s.shadow, s.pending, s.active], ∀ r : Reg,
      bankRead P.pool b r =
        if regAddr r = 0x040 then 0x80008000#32
        else if regAddr r = 0x041 then 0x00008000#32
        else if regAddr r = 0x049 then 0x00000001#32
        else if regAddr r ∈ [0x008, 0x028, 0x068, 0x088, 0x0A8] then 0x0000000F#32
        else if regAddr r ∈ [0x102, 0x103] then 0x00008000#32
        else if regAddr r = 0x10B then 0x00000C00#32
        else if regAddr r = 0x110 then BitVec.ofNat 32 P.pool
        else if regAddr r = 0x120 then 0x00000080#32
        else if regAddr r = 0x121 then 0x00000780#32
        else if regAddr r = 0x122 then 0x00004000#32
        else 0#32)
end

