-- ==== Sys2Proof/Laws/Bank.lean ====
section
/-! SUPPORT. The laws of the parameter banks: addresses and registers agree, a write is read back and leaves every other
register alone, and every operation keeps the canonical form. -/

namespace Sys2Proof.Machine

variable {pool : Nat}

/-! ## The map -/

theorem regAt_envBase (t : EnvType) (l : Line) (k : Nat) (hk : k < 32) :
    regAt (envBase t l + k) = envRegAt t l k := by
  have all : ∀ k : Fin 32, regAt (envBase t l + k.val) = envRegAt t l k.val := by
    cases t <;> cases l <;> decide
  exact all ⟨k, hk⟩

/-- Every register stands at its own address. -/
theorem regAt_regAddr (r : Reg) : regAt (regAddr r) = some r := by
  cases r with
  | envStage t l s =>
    rw [regAddr, regAt_envBase t l s.val (by omega)]
    simp [envRegAt, s.isLt]
  | envSustain t l => rw [regAddr, regAt_envBase t l 8 (by omega)]; rfl
  | envEnd t l => rw [regAddr, regAt_envBase t l 9 (by omega)]; rfl
  | envInit t l => rw [regAddr, regAt_envBase t l 10 (by omega)]; rfl
  | oscCfg l => cases l <;> rfl
  | oscLevel l => cases l <;> rfl
  | detune l => cases l <;> rfl
  | efx i =>
    show regAt (0x180 + i.val) = _
    unfold regAt
    rw [if_neg (by omega), if_neg (by omega), if_neg (by omega), if_neg (by omega), if_neg (by omega),
      if_neg (by omega), if_pos (by omega), Nat.add_sub_cancel_left]
    simp [Fin.ofNat, Nat.mod_eq_of_lt i.isLt]
  | _ => rfl

theorem regAddr_injective {r r' : Reg} (h : regAddr r = regAddr r') : r = r' := by
  have := regAt_regAddr r'
  rw [← h, regAt_regAddr] at this
  exact Option.some.inj this

@[simp] theorem resetWordAt_regAddr (r : Reg) : resetWordAt pool (regAddr r) = resetWord pool r := by
  simp [resetWordAt, regAt_regAddr]

/-! ## Reads and writes of a bank in canonical form -/

/-- The word at an address: the one listed, else the reset word. -/
def wordAt (pool : Nat) (b : Bank) (a : Nat) : ParamWord := (b.lookup a).getD (resetWordAt pool a)

theorem bankRead_eq_wordAt (b : Bank) (r : Reg) : bankRead pool b r = wordAt pool b (regAddr r) := by
  unfold bankRead wordAt
  cases b.lookup (regAddr r) <;> simp

theorem lookup_none_of_below {lo a : Nat} {b : Bank} (hb : cellsOk pool lo b = true) (ha : a < lo) :
    b.lookup a = none := by
  induction b generalizing lo with
  | nil => rfl
  | cons c rest ih =>
    obtain ⟨x, w⟩ := c
    simp only [cellsOk, Bool.and_eq_true, decide_eq_true_eq] at hb
    have hne : (a == x) = false := by simp; omega
    simp [List.lookup, hne, ih hb.2 (by omega)]

theorem cellsOk_mono {lo lo' : Nat} {b : Bank} (h : lo' ≤ lo) (hb : cellsOk pool lo b = true) :
    cellsOk pool lo' b = true := by
  cases b with
  | nil => rfl
  | cons c rest =>
    obtain ⟨x, w⟩ := c
    simp only [cellsOk, Bool.and_eq_true, decide_eq_true_eq] at hb ⊢
    exact ⟨⟨⟨by omega, hb.1.1.2⟩, hb.1.2⟩, hb.2⟩

theorem bankInsert_cellsOk {lo : Nat} {b : Bank} {a : Nat} {w : ParamWord} (hb : cellsOk pool lo b = true)
    (hlo : lo ≤ a) (ha : (regAt a).isSome = true) : cellsOk pool lo (bankInsert pool b a w) = true := by
  induction b generalizing lo with
  | nil =>
    unfold bankInsert
    split <;> simp_all [cellsOk]
  | cons c rest ih =>
    obtain ⟨x, u⟩ := c
    simp only [cellsOk, Bool.and_eq_true, decide_eq_true_eq] at hb
    obtain ⟨⟨⟨hlx, hx⟩, hu⟩, hr⟩ := hb
    unfold bankInsert
    split
    · split
      · simp [cellsOk, hlx, hx, hu, hr]
      · next hlt hw => simp [cellsOk, hlo, ha, hw, hx, hu, hr]; omega
    · split
      · next hlt heq =>
        subst heq
        split
        · exact cellsOk_mono (by omega) hr
        · next hw => simp [cellsOk, hlo, hx, hw, hr]
      · next hlt hne =>
        simp only [cellsOk, Bool.and_eq_true, decide_eq_true_eq]
        exact ⟨⟨⟨hlx, hx⟩, hu⟩, ih hr (by omega)⟩

theorem wordAt_bankInsert {lo : Nat} {b : Bank} {a : Nat} {w : ParamWord} (hb : cellsOk pool lo b = true)
    (a' : Nat) : wordAt pool (bankInsert pool b a w) a' = if a' = a then w else wordAt pool b a' := by
  induction b generalizing lo with
  | nil =>
    unfold bankInsert
    by_cases h : a' = a
    · subst h; split <;> simp_all [wordAt, List.lookup]
    · have : (a' == a) = false := by simp [h]
      split <;> simp [wordAt, List.lookup, this]
  | cons c rest ih =>
    obtain ⟨x, u⟩ := c
    simp only [cellsOk, Bool.and_eq_true, decide_eq_true_eq] at hb
    obtain ⟨⟨⟨hlx, hx⟩, hu⟩, hr⟩ := hb
    have below : a ≤ x → (rest.lookup a) = none := fun h => lookup_none_of_below hr (by omega)
    have ih' := ih hr
    unfold wordAt at ih' ⊢
    unfold bankInsert
    by_cases h : a' = a
    · subst h
      split
      · next hlt =>
        have hx : (a' == x) = false := by simp; omega
        have hn := below (by omega)
        split
        · next hw => simp only [List.lookup, hx, hn, Option.getD_none, if_pos]; exact hw.symm
        · simp [List.lookup]
      · split
        · next hlt heq =>
          subst heq
          split <;> simp_all [List.lookup, below (by omega)]
        · next hlt hne =>
          have hne' : (a' == x) = false := by simp [hne]
          simp [List.lookup, hne', ih']
    · have hna : (a' == a) = false := by simp [h]
      split
      · split <;> simp [List.lookup, hna]
      · split
        · next hlt heq =>
          subst heq
          split <;> simp [List.lookup, hna]
        · next hlt hne =>
          cases hq : (a' == x)
          · simpa only [List.lookup, hq, if_neg h] using ih'
          · simp only [List.lookup, hq]

/-- A write is read back. -/
theorem bankRead_bankWrite_same {b : Bank} (hb : Bank.wf pool b = true) (r : Reg) (w : ParamWord) :
    bankRead pool (bankWrite pool b r w) r = w := by
  rw [bankRead_eq_wordAt, bankWrite, wordAt_bankInsert hb, if_pos rfl]

/-- A write leaves every other register alone. -/
theorem bankRead_bankWrite_other {b : Bank} (hb : Bank.wf pool b = true) {r r' : Reg} (h : r' ≠ r) (w : ParamWord) :
    bankRead pool (bankWrite pool b r w) r' = bankRead pool b r' := by
  rw [bankRead_eq_wordAt, bankWrite, wordAt_bankInsert hb, if_neg (fun e => h (regAddr_injective e)),
    bankRead_eq_wordAt]

/-- A write keeps the canonical form. -/
theorem bankWrite_wf {b : Bank} (hb : Bank.wf pool b = true) (r : Reg) (w : ParamWord) :
    Bank.wf pool (bankWrite pool b r w) = true :=
  bankInsert_cellsOk hb (Nat.zero_le _) (by simp [regAt_regAddr])

theorem bankInsert_mem {b : Bank} {a : Nat} {w : ParamWord} {c : Nat × ParamWord}
    (h : c ∈ bankInsert pool b a w) : c = (a, w) ∨ c ∈ b := by
  induction b with
  | nil => unfold bankInsert at h; split at h <;> simp_all
  | cons d rest ih =>
    obtain ⟨x, u⟩ := d
    unfold bankInsert at h
    split at h
    · split at h <;> simp_all
    · split at h
      · split at h
        · exact .inr (List.mem_cons_of_mem _ h)
        · rcases List.mem_cons.1 h with h | h
          · exact .inl h
          · exact .inr (List.mem_cons_of_mem _ h)
      · rcases List.mem_cons.1 h with h | h
        · exact .inr (by simp [h])
        · rcases ih h with h | h
          · exact .inl h
          · exact .inr (List.mem_cons_of_mem _ h)

/-- A write of a legal word keeps a bank legal. -/
theorem bankWrite_legal {b : Bank} (hb : Bank.legal pool b = true) {r : Reg} {w : ParamWord}
    (hw : legalWord pool r w = true) : Bank.legal pool (bankWrite pool b r w) = true := by
  unfold Bank.legal at hb ⊢
  rw [List.all_eq_true] at hb ⊢
  intro c hc
  rcases bankInsert_mem hc with rfl | hc
  · simpa [regAt_regAddr] using hw
  · exact hb c hc

/-! ## Every operation keeps the canonical form -/

variable {N Post : Type} (P : Config.Params N Post)

theorem writeShadow_wf {s : Engine N Post} (h : Bank.wf P.pool s.shadow = true) (a : ParamAddr) (d : ParamWord) :
    Bank.wf P.pool (writeShadow P a d s).shadow = true := by
  unfold writeShadow
  split
  · exact h
  · exact bankWrite_wf h _ _

theorem writeActive_wf {s : Engine N Post} (h : Bank.wf P.pool s.active = true) (r : Reg) (w : ParamWord) :
    Bank.wf P.pool (writeActive P s r w).active = true := bankWrite_wf h r w

theorem applyStage_wf {s : Engine N Post} (h : Bank.wf P.pool s.active = true) (t : EnvType) (line : BitVec 2)
    (index : BitVec 4) (rate level : Code) : Bank.wf P.pool (applyStage P t line index rate level s).active = true := by
  unfold applyStage
  repeat' split
  all_goals first | exact h | exact bankWrite_wf h _ _

theorem applySustain_wf {s : Engine N Post} (h : Bank.wf P.pool s.active = true) (t : EnvType) (line : BitVec 2)
    (index : BitVec 4) : Bank.wf P.pool (applySustain P t line index s).active = true := by
  unfold applySustain
  repeat' split
  all_goals first | exact h | exact bankWrite_wf h _ _

theorem applyEnd_wf {s : Engine N Post} (h : Bank.wf P.pool s.active = true) (t : EnvType) (line : BitVec 2)
    (index : BitVec 4) : Bank.wf P.pool (applyEnd P t line index s).active = true := by
  unfold applyEnd
  repeat' split
  all_goals first | exact h | exact bankWrite_wf h _ _

theorem applyRecord_wf {s : Engine N Post} (h : Bank.wf P.pool s.active = true) (r : Rec) :
    Bank.wf P.pool (applyRecord P r s).active = true := by
  unfold applyRecord
  split
  all_goals first
    | exact applyStage_wf P h _ _ _ _ _
    | exact applySustain_wf P h _ _ _
    | exact applyEnd_wf P h _ _ _
    | exact h

theorem drain_wf {s : Engine N Post} (h : Bank.wf P.pool s.active = true) : Bank.wf P.pool (drain P s).active = true := by
  have step : ∀ (rs : List Rec) (s : Engine N Post), Bank.wf P.pool s.active = true →
      Bank.wf P.pool (rs.foldl (fun s r => applyRecord P r s) s).active = true := by
    intro rs
    induction rs with
    | nil => exact fun _ h => h
    | cons r rs ih => exact fun s h => ih _ (applyRecord_wf P h r)
  exact step s.cmdq { s with cmdq := [] } h

/-- The reset banks are in canonical form. -/
theorem reset_banks_wf : Bank.wf ref.pool State.reset.shadow = true ∧ Bank.wf ref.pool State.reset.pending = true ∧
    Bank.wf ref.pool State.reset.active = true := by decide

end Sys2Proof.Machine
end

