-- ==== Sys2Proof/Laws/Bytes.lean ====
section
/-! SUPPORT. The laws of the little-endian byte form: its length, and that reading gives back what was written. -/

namespace Sys2Proof

@[simp] theorem littleEndian_length (n x : Nat) : (littleEndian n x).length = n := by
  induction n generalizing x with
  | zero => rfl
  | succ n ih => simp [littleEndian, ih]

/-- Reading the bytes of a number gives the number, reduced to the bytes' width, and leaves what follows them. -/
theorem takeLittleEndian_littleEndian (n x : Nat) (rest : List Byte) :
    takeLittleEndian n (littleEndian n x ++ rest) = .ok (x % 256 ^ n, rest) := by
  induction n generalizing x with
  | zero => simp [takeLittleEndian, littleEndian, Nat.mod_one]
  | succ n ih =>
    simp only [littleEndian, List.cons_append, takeLittleEndian, ih, BitVec.toNat_ofNat]
    have h : x % 256 ^ (n + 1) = x % 2 ^ 8 + 256 * (x / 256 % 256 ^ n) := by
      rw [pow_succ', Nat.mod_mul]; norm_num
    rw [h]

/-- Fewer bytes than the form's length are rejected by name. -/
theorem takeLittleEndian_truncated {n : Nat} {bytes : List Byte} (h : bytes.length < n) :
    takeLittleEndian n bytes = .error .truncated := by
  induction n generalizing bytes with
  | zero => omega
  | succ n ih =>
    cases bytes with
    | nil => rfl
    | cons b bytes => simp [takeLittleEndian, ih (by simpa using h)]

end Sys2Proof
end

