-- ==== Sys2Proof/Laws/Exp2.lean ====
section
/-! SUPPORT. The enclosures of Machine/Exp2.lean hold over the reals: what `encloseTwoPow` answers lies on both sides of
`2 ^ r`. -/

namespace Sys2Proof.Machine

/-- Each row squared lies within the row before it times `2 ^ rootScale`, from below, and the row plus 2 from above. -/
def rootRowsOk : Nat → List Nat → Bool
  | _, [] => true
  | above, root :: rest =>
    decide (root ^ 2 ≤ above * 2 ^ rootScale) && decide ((above + 2) * 2 ^ rootScale ≤ (root + 2) ^ 2) &&
      rootRowsOk root rest

theorem twoRoots_ok : rootRowsOk (2 * 2 ^ rootScale) twoRoots = true := by decide +kernel

theorem twoRoots_length : twoRoots.length = rootCount := by decide

/-- Halving the exponent of a bound. -/
theorem root_bounds {above root : Nat} {x : ℝ} (hlo : (above : ℝ) ≤ (2 : ℝ) ^ x * 2 ^ rootScale)
    (hhi : (2 : ℝ) ^ x * 2 ^ rootScale ≤ (above : ℝ) + 2) (h1 : root ^ 2 ≤ above * 2 ^ rootScale)
    (h2 : (above + 2) * 2 ^ rootScale ≤ (root + 2) ^ 2) :
    (root : ℝ) ≤ (2 : ℝ) ^ (x / 2) * 2 ^ rootScale ∧ (2 : ℝ) ^ (x / 2) * 2 ^ rootScale ≤ (root : ℝ) + 2 := by
  have hp : (0 : ℝ) < 2 ^ rootScale := by positivity
  have hy : (0 : ℝ) < (2 : ℝ) ^ (x / 2) := by positivity
  have hsq : ((2 : ℝ) ^ (x / 2)) ^ 2 = (2 : ℝ) ^ x := by
    rw [← Real.rpow_natCast, ← Real.rpow_mul (by norm_num)]
    congr 1
    push_cast
    ring
  have h1' : (root : ℝ) ^ 2 ≤ above * 2 ^ rootScale := by exact_mod_cast h1
  have h2' : ((above : ℝ) + 2) * 2 ^ rootScale ≤ ((root : ℝ) + 2) ^ 2 := by exact_mod_cast h2
  constructor
  · refine le_of_sq_le_sq ?_ (by positivity)
    calc (root : ℝ) ^ 2 ≤ above * 2 ^ rootScale := h1'
      _ ≤ ((2 : ℝ) ^ x * 2 ^ rootScale) * 2 ^ rootScale := by gcongr
      _ = _ := by rw [mul_pow, hsq]; ring
  · refine le_of_sq_le_sq ?_ (by positivity)
    calc ((2 : ℝ) ^ (x / 2) * 2 ^ rootScale) ^ 2 = ((2 : ℝ) ^ x * 2 ^ rootScale) * 2 ^ rootScale := by
          rw [mul_pow, hsq]; ring
      _ ≤ ((above : ℝ) + 2) * 2 ^ rootScale := by gcongr
      _ ≤ _ := h2'

theorem two_rpow_le_one_add {u : ℝ} (h0 : 0 ≤ u) (h1 : u ≤ 1) : (2 : ℝ) ^ u ≤ 1 + u := by
  have h := rpow_one_add_le_one_add_mul_self (s := 1) (p := u) (by norm_num) h0 h1
  norm_num at h
  exact h

/-- What `encloseDigits` answers, when `lo` and `hi` enclose a value and `roots` are the rows that follow the one with
exponent `x`: an enclosure of the value times `2 ^ t`. -/
theorem encloseDigits_bounds (roots : List Nat) :
    ∀ (above frac lo hi : Nat) (x t value : ℝ), rootRowsOk above roots = true →
      (above : ℝ) ≤ (2 : ℝ) ^ x * 2 ^ rootScale → (2 : ℝ) ^ x * 2 ^ rootScale ≤ (above : ℝ) + 2 →
      frac < 2 ^ rootCount → roots.length ≤ rootCount → 2 ^ (rootCount - roots.length) ∣ frac → 0 < value →
      (lo : ℝ) ≤ value * 2 ^ rootScale → value * 2 ^ rootScale ≤ hi →
      (frac : ℝ) / 2 ^ rootCount * x ≤ t → t ≤ (frac : ℝ) / 2 ^ rootCount * x + 1 / 2 ^ rootCount →
      ((encloseDigits roots frac lo hi).1 : ℝ) ≤ value * (2 : ℝ) ^ t * 2 ^ rootScale ∧
        value * (2 : ℝ) ^ t * 2 ^ rootScale ≤ ((encloseDigits roots frac lo hi).2 : ℝ) := by
  induction roots with
  | nil =>
    intro above frac lo hi x t value _ _ _ hf _ hd hv hlo hhi ht1 ht2
    have hz : frac = 0 := Nat.eq_zero_of_dvd_of_lt (by simpa using hd) hf
    subst hz
    simp only [Nat.cast_zero, zero_div, zero_mul, zero_add] at ht1 ht2
    have hone : (1 : ℝ) ≤ (2 : ℝ) ^ t := Real.one_le_rpow (by norm_num) ht1
    have hup : (2 : ℝ) ^ t ≤ 1 + 1 / 2 ^ rootCount :=
      (Real.rpow_le_rpow_of_exponent_le (by norm_num) ht2).trans
        (two_rpow_le_one_add (by positivity) (by
          rw [div_le_one (by positivity)]
          exact one_le_pow₀ (by norm_num)))
    simp only [encloseDigits]
    constructor
    · calc (lo : ℝ) ≤ value * 2 ^ rootScale := hlo
        _ = value * 1 * 2 ^ rootScale := by ring
        _ ≤ _ := by gcongr
    · have hfloor : (hi : ℝ) / 2 ^ rootCount ≤ ((hi / 2 ^ rootCount : Nat) : ℝ) + 1 := by
        rw [div_le_iff₀ (by positivity)]
        have := Nat.lt_div_mul_add (a := hi) (b := 2 ^ rootCount) (by positivity)
        have h2 : hi ≤ (hi / 2 ^ rootCount + 1) * 2 ^ rootCount := by
          rw [Nat.add_mul, Nat.one_mul]; exact this.le
        exact_mod_cast h2
      calc value * (2 : ℝ) ^ t * 2 ^ rootScale ≤ value * (1 + 1 / 2 ^ rootCount) * 2 ^ rootScale := by gcongr
        _ = value * 2 ^ rootScale * (1 + 1 / 2 ^ rootCount) := by ring
        _ ≤ hi * (1 + 1 / 2 ^ rootCount) := by gcongr
        _ = hi + hi / 2 ^ rootCount := by ring
        _ ≤ _ := by push_cast; linarith
  | cons root roots ih =>
    intro above frac lo hi x t value hok hal hah hf hlen hd hv hlo hhi ht1 ht2
    simp only [rootRowsOk, Bool.and_eq_true, decide_eq_true_eq] at hok
    obtain ⟨⟨hr1, hr2⟩, hrest⟩ := hok
    obtain ⟨hb1, hb2⟩ := root_bounds hal hah hr1 hr2
    have hlen' : roots.length ≤ rootCount := by simp at hlen; omega
    have hpow : 2 ^ (rootCount - roots.length) ∣ 2 * frac := by
      have : rootCount - roots.length = (rootCount - (root :: roots).length) + 1 := by
        simp at hlen ⊢; omega
      rw [this, pow_succ, mul_comm]
      exact Nat.mul_dvd_mul_left 2 hd
    have hq : (0 : ℝ) < 2 ^ rootCount := by positivity
    have hs : (0 : ℝ) < 2 ^ rootScale := by positivity
    simp only [encloseDigits]
    split
    · next hdig =>
      have hcast : ((2 * frac - 2 ^ rootCount : Nat) : ℝ) = 2 * (frac : ℝ) - 2 ^ rootCount := by
        rw [Nat.cast_sub hdig]; push_cast; ring
      have hexp : ((2 * frac - 2 ^ rootCount : Nat) : ℝ) / 2 ^ rootCount * (x / 2) =
          (frac : ℝ) / 2 ^ rootCount * x - x / 2 := by
        rw [hcast]; field_simp
      have hdown : ((lo * root / 2 ^ rootScale : Nat) : ℝ) ≤ (value * (2 : ℝ) ^ (x / 2)) * 2 ^ rootScale := by
        have h1 : ((lo * root / 2 ^ rootScale : Nat) : ℝ) ≤ (lo * root : ℝ) / 2 ^ rootScale := by
          have := Nat.cast_div_le (α := ℝ) (m := lo * root) (n := 2 ^ rootScale)
          push_cast at this ⊢
          exact this
        refine h1.trans ?_
        rw [div_le_iff₀ hs]
        calc (lo : ℝ) * root ≤ (value * 2 ^ rootScale) * ((2 : ℝ) ^ (x / 2) * 2 ^ rootScale) :=
              mul_le_mul hlo hb1 (Nat.cast_nonneg _) (mul_pos hv hs).le
          _ = _ := by ring
      have hup : (value * (2 : ℝ) ^ (x / 2)) * 2 ^ rootScale ≤
          ((hi * (root + 2) / 2 ^ rootScale + 1 : Nat) : ℝ) := by
        have h1 : (hi * (root + 2) : ℝ) / 2 ^ rootScale ≤ ((hi * (root + 2) / 2 ^ rootScale + 1 : Nat) : ℝ) := by
          rw [div_le_iff₀ hs]
          have := Nat.lt_div_mul_add (a := hi * (root + 2)) (b := 2 ^ rootScale) (by positivity)
          have h2 : hi * (root + 2) ≤ (hi * (root + 2) / 2 ^ rootScale + 1) * 2 ^ rootScale := by
            rw [Nat.add_mul, Nat.one_mul]; exact this.le
          exact_mod_cast h2
        refine le_trans ?_ h1
        rw [le_div_iff₀ hs]
        calc value * (2 : ℝ) ^ (x / 2) * 2 ^ rootScale * 2 ^ rootScale
            = (value * 2 ^ rootScale) * ((2 : ℝ) ^ (x / 2) * 2 ^ rootScale) := by ring
          _ ≤ hi * ((root : ℝ) + 2) := mul_le_mul hhi hb2
              (mul_pos (Real.rpow_pos_of_pos (by norm_num) _) hs).le (Nat.cast_nonneg _)
      have h := ih root (2 * frac - 2 ^ rootCount) _ _ (x / 2) (t - x / 2) (value * (2 : ℝ) ^ (x / 2)) hrest hb1 hb2
        (by omega) hlen' ((Nat.dvd_sub hpow (Nat.pow_dvd_pow 2 (by omega)))) (by positivity) hdown hup
        (by rw [hexp]; linarith) (by rw [hexp]; linarith)
      have hmul : value * (2 : ℝ) ^ (x / 2) * (2 : ℝ) ^ (t - x / 2) = value * (2 : ℝ) ^ t := by
        rw [mul_assoc, ← Real.rpow_add (by norm_num)]
        congr 2
        ring
      rw [hmul] at h
      exact h
    · next hdig =>
      have hexp : ((2 * frac : Nat) : ℝ) / 2 ^ rootCount * (x / 2) = (frac : ℝ) / 2 ^ rootCount * x := by
        push_cast; field_simp
      exact ih root (2 * frac) lo hi (x / 2) t value hrest hb1 hb2 (by omega) hlen' hpow hv hlo hhi
        (by rw [hexp]; exact ht1) (by rw [hexp]; exact ht2)

/-- The enclosure of `2 ^ r`. -/
theorem encloseTwoPow_bounds {r : ℚ} (h0 : 0 ≤ r) (h1 : r < 1) :
    ((encloseTwoPow r).1 : ℝ) ≤ (2 : ℝ) ^ (r : ℝ) * 2 ^ rootScale ∧
      (2 : ℝ) ^ (r : ℝ) * 2 ^ rootScale ≤ ((encloseTwoPow r).2 : ℝ) := by
  have hq : (0 : ℚ) < 2 ^ rootCount := by positivity
  have hnn : 0 ≤ ⌊r * 2 ^ rootCount⌋ := Int.floor_nonneg.2 (by positivity)
  obtain ⟨n, hn⟩ := Int.eq_ofNat_of_zero_le hnn
  have hlow : (n : ℚ) ≤ r * 2 ^ rootCount := by
    have := Int.floor_le (r * 2 ^ rootCount); rw [hn] at this; exact_mod_cast this
  have hhigh : r * 2 ^ rootCount < (n : ℚ) + 1 := by
    have := Int.lt_floor_add_one (r * 2 ^ rootCount); rw [hn] at this; exact_mod_cast this
  have hfrac : n < 2 ^ rootCount := by
    have : (n : ℚ) < 2 ^ rootCount := hlow.trans_lt (by nlinarith)
    exact_mod_cast this
  have hlow' : (n : ℝ) ≤ (r : ℝ) * 2 ^ rootCount := by exact_mod_cast hlow
  have hhigh' : (r : ℝ) * 2 ^ rootCount < (n : ℝ) + 1 := by exact_mod_cast hhigh
  have hqr : (0 : ℝ) < 2 ^ rootCount := by positivity
  have h := encloseDigits_bounds twoRoots (2 * 2 ^ rootScale) n (2 ^ rootScale) (2 ^ rootScale) 1 r 1 twoRoots_ok
    (by push_cast; simp) (by push_cast; simp) hfrac twoRoots_length.le (by simp [twoRoots_length]) one_pos
    (by push_cast; simp) (by push_cast; simp) (by rw [mul_one, div_le_iff₀ hqr]; exact hlow')
    (by
      rw [mul_one, ← add_div, le_div_iff₀ hqr]
      exact hhigh'.le)
  unfold encloseTwoPow
  rw [hn]
  simpa using h

end Sys2Proof.Machine
end

