-- ==== Sys2Proof/Laws/Exact.lean ====
section
/-! SUPPORT. The arithmetic of Machine/Exact.lean denotes that of the reals, and its bounds hold. -/

namespace Sys2Proof.Machine

/-! ## What each constructor denotes -/

@[simp] theorem toReal_rat (q : ℚ) : (Exact.rat q).toReal = q := rfl
@[simp] theorem toReal_draw (n : Nat) : (Exact.draw n).toReal = Config.jitter.value n := rfl
@[simp] theorem toReal_sinTurn (q : ℚ) : (Exact.sinTurn q).toReal = Real.sin (2 * Real.pi * q) := rfl
@[simp] theorem toReal_twoPow (x : Exact) : (Exact.twoPow x).toReal = (2 : ℝ) ^ x.toReal := rfl
@[simp] theorem toReal_add (x y : Exact) : (Exact.add x y).toReal = x.toReal + y.toReal := rfl
@[simp] theorem toReal_mul (x y : Exact) : (Exact.mul x y).toReal = x.toReal * y.toReal := rfl
@[simp] theorem toReal_inv (x : Exact) : (Exact.inv x).toReal = (x.toReal)⁻¹ := rfl
@[simp] theorem toReal_max (x y : Exact) : (Exact.max x y).toReal = Max.max x.toReal y.toReal := rfl
@[simp] theorem toReal_min (x y : Exact) : (Exact.min x y).toReal = Min.min x.toReal y.toReal := rfl
@[simp] theorem toReal_frac (x : Exact) : (Exact.frac x).toReal = Int.fract x.toReal := rfl

/-! ## Arithmetic -/

theorem exactAddRat_toReal (q : ℚ) (x : Exact) : (exactAddRat q x).toReal = q + x.toReal := by
  fun_cases exactAddRat q x with
  | case2 p y h =>
    have h' : (q : ℝ) + p = 0 := by exact_mod_cast h
    simp only [toReal_add, toReal_rat]
    linarith
  | _ => simp_all [add_assoc]

/-- An expression is its rational part plus its rest. -/
theorem exactSplit_toReal (x : Exact) :
    x.toReal = (exactSplit x).1 + (match (exactSplit x).2 with | some y => y.toReal | none => 0) := by
  fun_cases exactSplit x <;> simp_all

/-- `exactAdd` is addition. -/
theorem exactAdd_toReal (x y : Exact) : (exactAdd x y).toReal = x.toReal + y.toReal := by
  have hx := exactSplit_toReal x
  have hy := exactSplit_toReal y
  unfold exactAdd
  split <;> simp_all [exactAddRat_toReal] <;> ring

/-- `exactScale` is multiplication by a rational. -/
theorem exactScale_toReal (c : ℚ) (x : Exact) : (exactScale c x).toReal = c * x.toReal := by
  fun_induction exactScale c x with
  | case1 p => simp
  | case2 x y ihx ihy => simp [exactAdd_toReal, ihx, ihy, mul_add]
  | case3 p x h =>
    have h' : (c : ℝ) * p = 0 := by exact_mod_cast h
    simp [← mul_assoc, h']
  | case4 p x h0 h =>
    have h' : (c : ℝ) * p = 1 := by exact_mod_cast h
    simp [← mul_assoc, h']
  | case5 p x h0 h => simp [← mul_assoc]
  | _ => simp_all

/-- `exactMul` is multiplication. -/
theorem exactMul_toReal (x y : Exact) : (exactMul x y).toReal = x.toReal * y.toReal := by
  fun_cases exactMul x y <;> simp_all [exactScale_toReal, mul_comm]

/-- `exactSub` is subtraction. -/
theorem exactSub_toReal (x y : Exact) : (exactSub x y).toReal = x.toReal - y.toReal := by
  simp [exactSub, exactAdd_toReal, exactScale_toReal, sub_eq_add_neg]

/-- `exactDiv` is division. -/
theorem exactDiv_toReal (x y : Exact) : (exactDiv x y).toReal = x.toReal / y.toReal := by
  fun_cases exactDiv x y <;> simp_all [exactScale_toReal, exactMul_toReal, div_eq_mul_inv, mul_comm]

theorem twoPowInt_eq (n : Int) : ((twoPowInt n : ℚ) : ℝ) = (2 : ℝ) ^ (n : ℝ) := by
  rw [Real.rpow_intCast]
  unfold twoPowInt
  split
  · next h =>
    obtain ⟨m, rfl⟩ := Int.eq_ofNat_of_zero_le h
    simp
  · next h =>
    obtain ⟨m, hm⟩ := Int.eq_ofNat_of_zero_le (show 0 ≤ -n by omega)
    obtain rfl : n = -(m : Int) := by omega
    simp

/-- `exactTwoPow` is `2 ^ x`. -/
theorem exactTwoPow_toReal (x : Exact) : (exactTwoPow x).toReal = (2 : ℝ) ^ x.toReal := by
  fun_cases exactTwoPow x
  · next q h =>
    have hq : (q : ℝ) = (q.num : ℝ) := by
      have := Rat.coe_int_num_of_den_eq_one h
      rw [← this]
      norm_cast
    simp only [toReal_rat, twoPowInt_eq, hq]
  · rfl
  · rfl

/-- `exactSinTurn` is the sine. -/
theorem exactSinTurn_toReal (q : ℚ) : (exactSinTurn q).toReal = Real.sin (2 * Real.pi * q) := by
  have hper : Real.sin (2 * Real.pi * q) = Real.sin (2 * Real.pi * (Int.fract q : ℚ)) := by
    have : (2 * Real.pi * q : ℝ) = 2 * Real.pi * (Int.fract q : ℚ) + (⌊q⌋ : Int) * (2 * Real.pi) := by
      have : (q : ℝ) = (⌊q⌋ : Int) + (Int.fract q : ℚ) := by exact_mod_cast (Int.floor_add_fract q).symm
      rw [this]; push_cast; ring
    rw [this, Real.sin_add_int_mul_two_pi]
  rw [hper]
  have value : ∀ t s : ℚ, (t = s ∨ t = 1 / 2 - s) →
      (if t = 0 then Exact.rat 0 else if t = 1 / 4 then .rat 1 else .sinTurn t).toReal = Real.sin (2 * Real.pi * s) := by
    intro t s h
    have ht : Real.sin (2 * Real.pi * t) = Real.sin (2 * Real.pi * s) := by
      rcases h with rfl | rfl
      · rfl
      · rw [← Real.sin_pi_sub]
        congr 1
        push_cast
        ring
    rw [← ht]
    split
    · next h => simp [h]
    · split
      · next h => 
        rw [h, toReal_rat]
        rw [show (2 * Real.pi * ((1 / 4 : ℚ) : ℝ)) = Real.pi / 2 by push_cast; ring, Real.sin_pi_div_two]
        norm_num
      · rfl
  unfold exactSinTurn
  simp only
  split
  · rw [value _ (Int.fract q) (by split <;> simp)]
  · rw [exactScale_toReal, value _ (Int.fract q - 1 / 2) (by split <;> simp)]
    rw [show (2 * Real.pi * ((Int.fract q - 1 / 2 : ℚ) : ℝ)) = 2 * Real.pi * (Int.fract q : ℚ) - Real.pi by push_cast; ring,
      Real.sin_sub_pi]
    simp

/-! ## Bounds -/

/-- A number lies within bounds. -/
def Within (b : ℚ × ℚ) (x : ℝ) : Prop := (b.1 : ℝ) ≤ x ∧ x ≤ (b.2 : ℝ)

theorem twoPowInt_pos (n : Int) : 0 < twoPowInt n := by
  unfold twoPowInt
  split <;> positivity

/-- `2 ^ q` lies within `twoPowBounds q`. -/
theorem twoPowBounds_sound (q : ℚ) : Within (twoPowBounds q) ((2 : ℝ) ^ (q : ℝ)) := by
  obtain ⟨h1, h2⟩ := encloseTwoPow_bounds (Int.fract_nonneg q) (Int.fract_lt_one q)
  have hs : (0 : ℝ) < 2 ^ rootScale := by positivity
  have hsplit : (2 : ℝ) ^ (q : ℝ) = (twoPowInt ⌊q⌋ : ℝ) * (2 : ℝ) ^ ((Int.fract q : ℚ) : ℝ) := by
    rw [twoPowInt_eq, ← Real.rpow_add (by norm_num)]
    congr 1
    exact_mod_cast (Int.floor_add_fract q).symm
  have hp : (0 : ℝ) < (twoPowInt ⌊q⌋ : ℝ) := by exact_mod_cast twoPowInt_pos _
  have h1' := mul_le_mul_of_nonneg_left h1 hp.le
  have h2' := mul_le_mul_of_nonneg_left h2 hp.le
  push_cast at h1' h2'
  unfold twoPowBounds Within
  rw [hsplit]
  constructor
  · push_cast
    rw [div_le_iff₀ hs]
    linarith
  · push_cast
    rw [le_div_iff₀ hs]
    linarith

theorem mul_between {a b x : ℝ} (y : ℝ) (h1 : a ≤ x) (h2 : x ≤ b) :
    min (a * y) (b * y) ≤ x * y ∧ x * y ≤ max (a * y) (b * y) := by
  rcases le_total 0 y with hy | hy
  · exact ⟨(min_le_left _ _).trans (mul_le_mul_of_nonneg_right h1 hy),
      (mul_le_mul_of_nonneg_right h2 hy).trans (le_max_right _ _)⟩
  · exact ⟨(min_le_right _ _).trans (mul_le_mul_of_nonpos_right h2 hy),
      (mul_le_mul_of_nonpos_right h1 hy).trans (le_max_left _ _)⟩

/-- A product lies within the bounds of its factors' products. -/
theorem productBounds_sound {a b : ℚ × ℚ} {x y : ℝ} (hx : Within a x) (hy : Within b y) :
    Within (productBounds a b) (x * y) := by
  obtain ⟨h1, h2⟩ := mul_between y hx.1 hx.2
  obtain ⟨h3, h4⟩ := mul_between (a.1 : ℝ) hy.1 hy.2
  obtain ⟨h5, h6⟩ := mul_between (a.2 : ℝ) hy.1 hy.2
  simp only [mul_comm _ (a.1 : ℝ), mul_comm _ (a.2 : ℝ)] at h3 h4 h5 h6
  unfold Within productBounds
  push_cast
  constructor
  · exact (min_le_min h3 h5).trans h1
  · exact h2.trans (max_le_max h4 h6)

/-! ## The sine -/

/-- `sineTerms` is a part of the sine series. -/
theorem sineTerms_eq (n : Nat) : ∀ (m : Nat) (y : ℚ),
    sineTerms n m (y ^ 2) (y ^ m / m.factorial) =
      ∑ i ∈ Finset.range n, (-1) ^ i * (y ^ (m + 2 * i) / (m + 2 * i).factorial) := by
  induction n with
  | zero => intro m y; rfl
  | succ n ih =>
    intro m y
    have hterm : y ^ m / (m.factorial : ℚ) * y ^ 2 / ((m + 1) * (m + 2) : Nat) =
        y ^ (m + 2) / ((m + 2).factorial : ℚ) := by
      rw [Nat.factorial_succ, Nat.factorial_succ, pow_add]
      push_cast
      have : (m.factorial : ℚ) ≠ 0 := by exact_mod_cast m.factorial_ne_zero
      field_simp
      ring
    rw [sineTerms, hterm, ih (m + 2) y, Finset.sum_range_succ']
    simp only [pow_zero, Nat.mul_zero, Nat.add_zero, one_mul, pow_succ, mul_neg, mul_one, neg_mul,
      Finset.sum_neg_distrib]
    rw [sub_eq_add_neg, add_comm]
    congr 2
    apply Finset.sum_congr rfl
    intro i _
    rw [show m + 2 + 2 * i = m + 2 * (i + 1) by ring]

/-- The first fourteen terms of the series of the sine of y, for y in [0, 8/5]. -/
theorem sine_series {y : ℝ} (h0 : 0 ≤ y) (h1 : y ≤ 8 / 5) :
    (∑ i ∈ Finset.range 14, (-1) ^ i * (y ^ (1 + 2 * i) / (1 + 2 * i).factorial)) ≤ Real.sin y ∧
      Real.sin y ≤ (∑ i ∈ Finset.range 14, (-1) ^ i * (y ^ (1 + 2 * i) / (1 + 2 * i).factorial)) + 1 / 10 ^ 23 := by
  set f : Nat → ℝ := fun i => y ^ (1 + 2 * i) / (1 + 2 * i).factorial with hf
  have hanti : Antitone f := by
    refine antitone_nat_of_succ_le fun n => ?_
    simp only [hf]
    rw [show 1 + 2 * (n + 1) = (1 + 2 * n) + 2 by ring, Nat.factorial_succ, Nat.factorial_succ, pow_add]
    have hfac : (0 : ℝ) < ((1 + 2 * n).factorial : ℝ) := by exact_mod_cast Nat.factorial_pos _
    rw [div_le_div_iff₀ (by positivity) hfac]
    push_cast
    have hy : y ^ 2 ≤ (1 + 2 * (n : ℝ) + 1 + 1) * (1 + 2 * n + 1) := by nlinarith [Nat.cast_nonneg (α := ℝ) n]
    have hp : 0 ≤ y ^ (1 + 2 * n) * ((1 + 2 * n).factorial : ℝ) := by positivity
    nlinarith [mul_le_mul_of_nonneg_left hy hp]
  have hlim : Filter.Tendsto (fun n => ∑ i ∈ Finset.range n, (-1) ^ i * f i) Filter.atTop (nhds (Real.sin y)) := by
    have h := (Real.hasSum_sin y).tendsto_sum_nat
    refine h.congr fun n => Finset.sum_congr rfl fun i _ => ?_
    simp only [hf]
    rw [add_comm (2 * i) 1]
    ring
  constructor
  · exact hanti.alternating_series_le_tendsto hlim 7
  · refine (hanti.tendsto_le_alternating_series hlim 7).trans ?_
    rw [Finset.sum_range_succ]
    have hlast : f 14 ≤ 1 / 10 ^ 23 := by
      simp only [hf]
      calc y ^ (1 + 2 * 14) / ((1 + 2 * 14).factorial : ℝ) ≤ (8 / 5) ^ 29 / ((1 + 2 * 14).factorial : ℝ) := by
            gcongr
        _ ≤ 1 / 10 ^ 23 := by norm_num [Nat.factorial]
    have : (-1 : ℝ) ^ (2 * 7) * f (2 * 7) = f 14 := by norm_num
    rw [this]
    linarith

/-- `sineNear` is within `sineError` of the sine. -/
theorem sineNear_sound {q : ℚ} (h0 : 0 ≤ q) (h1 : q ≤ 1 / 4) :
    Within (sineNear q - sineError, sineNear q + sineError) (Real.sin (2 * Real.pi * q)) := by
  have hpi1 := Real.pi_gt_d20
  have hpi2 := Real.pi_lt_d20
  have hq0 : (0 : ℝ) ≤ q := by exact_mod_cast h0
  have hq1 : (q : ℝ) ≤ 1 / 4 := by
    have h : (q : ℝ) ≤ ((1 / 4 : ℚ) : ℝ) := by exact_mod_cast h1
    simpa using h
  have hpb : ((piBelow : ℚ) : ℝ) = 3.14159265358979323846 := by unfold piBelow; norm_num
  have hy0 : (0 : ℝ) ≤ 2 * piBelow * q := by rw [hpb]; positivity
  have hy1 : (2 * piBelow * q : ℝ) ≤ 8 / 5 := by rw [hpb]; linarith
  obtain ⟨hs1, hs2⟩ := sine_series hy0 hy1
  have hnear : ((sineNear q : ℚ) : ℝ) =
      ∑ i ∈ Finset.range 14, (-1) ^ i * ((2 * piBelow * q : ℝ) ^ (1 + 2 * i) / (1 + 2 * i).factorial) := by
    have h := sineTerms_eq 14 1 (2 * piBelow * q)
    have h' : sineNear q = ∑ i ∈ Finset.range 14, (-1) ^ i * ((2 * piBelow * q) ^ (1 + 2 * i) / (1 + 2 * i).factorial) := by
      rw [← h]
      unfold sineNear
      congr 1
      simp
    rw [h']
    push_cast
    rfl
  rw [← hnear] at hs1 hs2
  have hdist := Real.abs_sin_sub_sin_le (2 * Real.pi * q) (2 * piBelow * q)
  have hclose : |2 * Real.pi * q - 2 * piBelow * (q : ℝ)| ≤ 1 / 10 ^ 20 := by
    rw [show 2 * Real.pi * q - 2 * piBelow * (q : ℝ) = 2 * (Real.pi - piBelow) * q by ring, hpb, abs_of_nonneg]
    · nlinarith
    · have : (0 : ℝ) ≤ Real.pi - 3.14159265358979323846 := by linarith
      positivity
  have h := abs_le.1 (hdist.trans hclose)
  have herr : ((sineError : ℚ) : ℝ) = 1 / 10 ^ 19 := by unfold sineError; norm_num
  unfold Within
  push_cast
  rw [herr]
  constructor <;> norm_num at * <;> linarith [h.1, h.2]

/-- What `exactBounds` answers are bounds. -/
theorem exactBounds_sound (x : Exact) : ∀ b, exactBounds x = some b → Within b x.toReal := by
  induction x with
  | rat q => rintro b ⟨⟩; exact ⟨le_rfl, le_rfl⟩
  | draw n =>
    rintro b ⟨⟩
    obtain ⟨h1, h2⟩ := Config.jitter.bounded n
    exact ⟨by simpa using h1, by simpa using h2⟩
  | sinTurn q =>
    intro b h
    unfold exactBounds at h
    split at h
    · next hq => cases h; exact sineNear_sound hq.1 hq.2
    · cases h
      exact ⟨by simpa using Real.neg_one_le_sin _, by simpa using Real.sin_le_one _⟩
  | twoPow x ih =>
    intro b h
    unfold exactBounds at h
    split at h
    · next c hc =>
      cases h
      have hx := ih c hc
      have h1 := (twoPowBounds_sound c.1).1
      have h2 := (twoPowBounds_sound c.2).2
      exact ⟨h1.trans (Real.rpow_le_rpow_of_exponent_le (by norm_num) hx.1),
        (Real.rpow_le_rpow_of_exponent_le (by norm_num) hx.2).trans h2⟩
    · cases h
  | add x y ihx ihy =>
    intro b h
    unfold exactBounds at h
    split at h
    · next c d hc hd =>
      cases h
      have hx := ihx c hc
      have hy := ihy d hd
      constructor <;> push_cast <;> simp only [toReal_add] <;> linarith [hx.1, hx.2, hy.1, hy.2]
    · cases h
  | mul x y ihx ihy =>
    intro b h
    unfold exactBounds at h
    split at h
    · next c d hc hd => cases h; exact productBounds_sound (ihx c hc) (ihy d hd)
    · cases h
  | inv x ih =>
    intro b h
    unfold exactBounds at h
    split at h
    · next c hc =>
      obtain ⟨h1, h2⟩ := ih c hc
      split at h
      · next hsign =>
        cases h
        rcases hsign with hpos | hneg
        · have hp : (0 : ℝ) < c.1 := by exact_mod_cast hpos
          constructor
          · push_cast
            rw [toReal_inv, one_div]
            exact inv_anti₀ (hp.trans_le h1) h2
          · push_cast
            rw [toReal_inv, one_div]
            exact inv_anti₀ hp h1
        · have hn : (c.2 : ℝ) < 0 := by exact_mod_cast hneg
          constructor
          · push_cast
            rw [toReal_inv, one_div]
            exact (inv_le_inv_of_neg hn (h2.trans_lt hn)).2 h2
          · push_cast
            rw [toReal_inv, one_div]
            exact (inv_le_inv_of_neg (h2.trans_lt hn) ((h1.trans h2).trans_lt hn)).2 h1
      · cases h
    · cases h
  | max x y ihx ihy =>
    intro b h
    unfold exactBounds at h
    split at h
    · next c d hc hd =>
      cases h
      have hx := ihx c hc
      have hy := ihy d hd
      constructor <;> push_cast
      · exact max_le_max hx.1 hy.1
      · exact max_le_max hx.2 hy.2
    · cases h
  | min x y ihx ihy =>
    intro b h
    unfold exactBounds at h
    split at h
    · next c d hc hd =>
      cases h
      have hx := ihx c hc
      have hy := ihy d hd
      constructor <;> push_cast
      · exact min_le_min hx.1 hy.1
      · exact min_le_min hx.2 hy.2
    · cases h
  | frac x ih =>
    rintro b ⟨⟩
    exact ⟨by simp, by simpa using (Int.fract_lt_one _).le⟩
  | choose t x y iht ihx ihy =>
    intro b h
    unfold exactBounds at h
    split at h
    · next c d hc hd =>
      cases h
      have hx := ihx c hc
      have hy := ihy d hd
      unfold Exact.toReal
      constructor <;> push_cast <;> split
      · exact (min_le_left _ _).trans hx.1
      · exact (min_le_right _ _).trans hy.1
      · exact hx.2.trans (le_max_left _ _)
      · exact hy.2.trans (le_max_right _ _)
    · cases h

/-! ## Linear expressions -/

/-- What `exactLinear` answers is the expression's value. -/
theorem exactLinear_sound (x : Exact) : ∀ l, exactLinear x = some l →
    x.toReal = (l.1 : ℝ) + (l.2.map fun t => (t.1 : ℝ) * Config.jitter.value t.2).sum := by
  fun_induction exactLinear x with
  | case1 q => rintro l ⟨⟩; simp
  | case2 n => rintro l ⟨⟩; simp
  | case3 x y a b hb ha ihx ihy =>
    rintro l ⟨⟩
    rw [toReal_add, ihx a ha, ihy b hb]
    simp only [List.map_append, List.sum_append]
    push_cast
    ring
  | case4 => rintro l ⟨⟩
  | case5 c x a ha ih =>
    rintro l ⟨⟩
    rw [toReal_mul, toReal_rat, ih a ha]
    simp only [List.map_map]
    push_cast
    rw [mul_add, ← List.sum_map_mul_left]
    congr 2
    apply List.map_congr_left
    intro t _
    simp [mul_assoc]
  | case6 => rintro l ⟨⟩
  | case7 => rintro l ⟨⟩

/-! ## Decisions -/

/-- What `exactExp2` answers is the expression's value, with a coefficient at least 0. -/
theorem exactExp2_sound {x : Exact} {y : ℚ × Exp2} (h : exactExp2 x = some y) :
    0 ≤ y.2.coef ∧ x.toReal = (y.1 : ℝ) + (y.2.coef : ℝ) * (2 : ℝ) ^ (y.2.exp : ℝ) := by
  have hs := exactSplit_toReal x
  unfold exactExp2 at h
  split at h
  · next e he =>
    cases h
    rw [he] at hs
    exact ⟨by norm_num, by simpa using hs⟩
  · next c e he =>
    split at h
    · next hc =>
      cases h
      rw [he] at hs
      exact ⟨hc, by simpa using hs⟩
    · cases h
  · cases h

/-- Where comparisons of `coef * 2 ^ exp` are those of the reals, the sign that `exactSign` finds is the real one. -/
theorem exactSign_sound
    (hexp : ∀ (e : Exp2) (q : ℚ), 0 ≤ e.coef → (exp2Ge e q = true ↔ (q : ℝ) ≤ (e.coef : ℝ) * (2 : ℝ) ^ (e.exp : ℝ)))
    {x : Exact} {b : Bool} (h : exactSign x = some b) : b = true ↔ 0 ≤ x.toReal := by
  unfold exactSign at h
  split at h
  · next q => cases h; simp
  · split at h
    · next y hy =>
      obtain ⟨hc, hx⟩ := exactExp2_sound hy
      cases h
      rw [hexp _ _ hc, hx]
      push_cast
      constructor <;> intro h <;> linarith
    · split at h
      · next c hc =>
        cases h
        unfold exactSignByBounds at hc
        split at hc
        · next bs hbs =>
          obtain ⟨h1, h2⟩ := exactBounds_sound x bs hbs
          split at hc
          · next hpos =>
            cases hc
            have : (0 : ℝ) ≤ bs.1 := by exact_mod_cast hpos
            simp [this.trans h1]
          · split at hc
            · next hneg =>
              cases hc
              have : (bs.2 : ℝ) < 0 := by exact_mod_cast hneg
              simp [h2.trans_lt this]
            · cases hc
        · cases hc
      · split at h
        · next l hl =>
          cases h
          rw [Config.jitter.nonneg_iff, exactLinear_sound x l hl]
        · cases h

/-- The sign of every linear expression is found. -/
theorem exactSign_linear {x : Exact} (h : (exactLinear x).isSome = true) : (exactSign x).isSome = true := by
  obtain ⟨l, hl⟩ := Option.isSome_iff_exists.1 h
  unfold exactSign
  split
  · rfl
  · split
    · rfl
    · split
      · rfl
      · rw [hl]
        rfl

end Sys2Proof.Machine
end

