-- ==== Sys2Proof/Laws/State.lean ====
section
/-! SUPPORT. What each named update of the engine does to each field: one lemma a field and an update, true by definition. -/

namespace Sys2Proof.Machine

variable {N Post : Type} (P : Config.Params N Post) (s : Engine N Post)

/-! ## `triggerSlot` -/

@[simp] theorem triggerSlot_time (v : Nat) (n : Note) (vel : N) : (triggerSlot P s v n vel).time = s.time := rfl
@[simp] theorem triggerSlot_rrCursor (v : Nat) (n : Note) (vel : N) : (triggerSlot P s v n vel).rrCursor = s.rrCursor := rfl
@[simp] theorem triggerSlot_modWheel (v : Nat) (n : Note) (vel : N) : (triggerSlot P s v n vel).modWheel = s.modWheel := rfl
@[simp] theorem triggerSlot_aftertouch (v : Nat) (n : Note) (vel : N) : (triggerSlot P s v n vel).aftertouch = s.aftertouch := rfl
@[simp] theorem triggerSlot_pitchBend (v : Nat) (n : Note) (vel : N) : (triggerSlot P s v n vel).pitchBend = s.pitchBend := rfl
@[simp] theorem triggerSlot_lfoIn (v : Nat) (n : Note) (vel : N) : (triggerSlot P s v n vel).lfoIn = s.lfoIn := rfl
@[simp] theorem triggerSlot_cmdq (v : Nat) (n : Note) (vel : N) : (triggerSlot P s v n vel).cmdq = s.cmdq := rfl
@[simp] theorem triggerSlot_outL (v : Nat) (n : Note) (vel : N) : (triggerSlot P s v n vel).outL = s.outL := rfl
@[simp] theorem triggerSlot_outR (v : Nat) (n : Note) (vel : N) : (triggerSlot P s v n vel).outR = s.outR := rfl
@[simp] theorem triggerSlot_shadow (v : Nat) (n : Note) (vel : N) : (triggerSlot P s v n vel).shadow = s.shadow := rfl
@[simp] theorem triggerSlot_pending (v : Nat) (n : Note) (vel : N) : (triggerSlot P s v n vel).pending = s.pending := rfl
@[simp] theorem triggerSlot_active (v : Nat) (n : Note) (vel : N) : (triggerSlot P s v n vel).active = s.active := rfl
@[simp] theorem triggerSlot_pendingValid (v : Nat) (n : Note) (vel : N) : (triggerSlot P s v n vel).pendingValid = s.pendingValid := rfl
@[simp] theorem triggerSlot_voices (v : Nat) (n : Note) (vel : N) : (triggerSlot P s v n vel).voices = s.voices.modify v (voiceNoteOn P s.active s.time n vel) := rfl
@[simp] theorem triggerSlot_held (v : Nat) (n : Note) (vel : N) : (triggerSlot P s v n vel).held = s.held := rfl
@[simp] theorem triggerSlot_arpRun (v : Nat) (n : Note) (vel : N) : (triggerSlot P s v n vel).arpRun = s.arpRun := rfl
@[simp] theorem triggerSlot_arpIdx (v : Nat) (n : Note) (vel : N) : (triggerSlot P s v n vel).arpIdx = s.arpIdx := rfl
@[simp] theorem triggerSlot_arpDir (v : Nat) (n : Note) (vel : N) : (triggerSlot P s v n vel).arpDir = s.arpDir := rfl
@[simp] theorem triggerSlot_arpAcc (v : Nat) (n : Note) (vel : N) : (triggerSlot P s v n vel).arpAcc = s.arpAcc := rfl
@[simp] theorem triggerSlot_arpStep (v : Nat) (n : Note) (vel : N) : (triggerSlot P s v n vel).arpStep = s.arpStep := rfl
@[simp] theorem triggerSlot_arpLen (v : Nat) (n : Note) (vel : N) : (triggerSlot P s v n vel).arpLen = s.arpLen := rfl
@[simp] theorem triggerSlot_arpBase (v : Nat) (n : Note) (vel : N) : (triggerSlot P s v n vel).arpBase = s.arpBase := rfl
@[simp] theorem triggerSlot_arpNote (v : Nat) (n : Note) (vel : N) : (triggerSlot P s v n vel).arpNote = s.arpNote := rfl
@[simp] theorem triggerSlot_arpGateOpen (v : Nat) (n : Note) (vel : N) : (triggerSlot P s v n vel).arpGateOpen = s.arpGateOpen := rfl
@[simp] theorem triggerSlot_draws (v : Nat) (n : Note) (vel : N) : (triggerSlot P s v n vel).draws = s.draws := rfl
@[simp] theorem triggerSlot_events (v : Nat) (n : Note) (vel : N) : (triggerSlot P s v n vel).events = s.events := rfl

/-! ## `releaseSlot` -/

@[simp] theorem releaseSlot_time (v : Nat) : (releaseSlot P s v).time = s.time := rfl
@[simp] theorem releaseSlot_rrCursor (v : Nat) : (releaseSlot P s v).rrCursor = s.rrCursor := rfl
@[simp] theorem releaseSlot_modWheel (v : Nat) : (releaseSlot P s v).modWheel = s.modWheel := rfl
@[simp] theorem releaseSlot_aftertouch (v : Nat) : (releaseSlot P s v).aftertouch = s.aftertouch := rfl
@[simp] theorem releaseSlot_pitchBend (v : Nat) : (releaseSlot P s v).pitchBend = s.pitchBend := rfl
@[simp] theorem releaseSlot_lfoIn (v : Nat) : (releaseSlot P s v).lfoIn = s.lfoIn := rfl
@[simp] theorem releaseSlot_cmdq (v : Nat) : (releaseSlot P s v).cmdq = s.cmdq := rfl
@[simp] theorem releaseSlot_outL (v : Nat) : (releaseSlot P s v).outL = s.outL := rfl
@[simp] theorem releaseSlot_outR (v : Nat) : (releaseSlot P s v).outR = s.outR := rfl
@[simp] theorem releaseSlot_shadow (v : Nat) : (releaseSlot P s v).shadow = s.shadow := rfl
@[simp] theorem releaseSlot_pending (v : Nat) : (releaseSlot P s v).pending = s.pending := rfl
@[simp] theorem releaseSlot_active (v : Nat) : (releaseSlot P s v).active = s.active := rfl
@[simp] theorem releaseSlot_pendingValid (v : Nat) : (releaseSlot P s v).pendingValid = s.pendingValid := rfl
@[simp] theorem releaseSlot_voices (v : Nat) : (releaseSlot P s v).voices = s.voices.modify v (voiceNoteOff P s.active) := rfl
@[simp] theorem releaseSlot_held (v : Nat) : (releaseSlot P s v).held = s.held := rfl
@[simp] theorem releaseSlot_arpRun (v : Nat) : (releaseSlot P s v).arpRun = s.arpRun := rfl
@[simp] theorem releaseSlot_arpIdx (v : Nat) : (releaseSlot P s v).arpIdx = s.arpIdx := rfl
@[simp] theorem releaseSlot_arpDir (v : Nat) : (releaseSlot P s v).arpDir = s.arpDir := rfl
@[simp] theorem releaseSlot_arpAcc (v : Nat) : (releaseSlot P s v).arpAcc = s.arpAcc := rfl
@[simp] theorem releaseSlot_arpStep (v : Nat) : (releaseSlot P s v).arpStep = s.arpStep := rfl
@[simp] theorem releaseSlot_arpLen (v : Nat) : (releaseSlot P s v).arpLen = s.arpLen := rfl
@[simp] theorem releaseSlot_arpBase (v : Nat) : (releaseSlot P s v).arpBase = s.arpBase := rfl
@[simp] theorem releaseSlot_arpNote (v : Nat) : (releaseSlot P s v).arpNote = s.arpNote := rfl
@[simp] theorem releaseSlot_arpGateOpen (v : Nat) : (releaseSlot P s v).arpGateOpen = s.arpGateOpen := rfl
@[simp] theorem releaseSlot_draws (v : Nat) : (releaseSlot P s v).draws = s.draws := rfl
@[simp] theorem releaseSlot_events (v : Nat) : (releaseSlot P s v).events = s.events := rfl

/-! ## `receiveEvent` -/

@[simp] theorem receiveEvent_time (e : AllocEvent N) : (receiveEvent s e).time = s.time := rfl
@[simp] theorem receiveEvent_rrCursor (e : AllocEvent N) : (receiveEvent s e).rrCursor = s.rrCursor := rfl
@[simp] theorem receiveEvent_modWheel (e : AllocEvent N) : (receiveEvent s e).modWheel = s.modWheel := rfl
@[simp] theorem receiveEvent_aftertouch (e : AllocEvent N) : (receiveEvent s e).aftertouch = s.aftertouch := rfl
@[simp] theorem receiveEvent_pitchBend (e : AllocEvent N) : (receiveEvent s e).pitchBend = s.pitchBend := rfl
@[simp] theorem receiveEvent_lfoIn (e : AllocEvent N) : (receiveEvent s e).lfoIn = s.lfoIn := rfl
@[simp] theorem receiveEvent_cmdq (e : AllocEvent N) : (receiveEvent s e).cmdq = s.cmdq := rfl
@[simp] theorem receiveEvent_outL (e : AllocEvent N) : (receiveEvent s e).outL = s.outL := rfl
@[simp] theorem receiveEvent_outR (e : AllocEvent N) : (receiveEvent s e).outR = s.outR := rfl
@[simp] theorem receiveEvent_shadow (e : AllocEvent N) : (receiveEvent s e).shadow = s.shadow := rfl
@[simp] theorem receiveEvent_pending (e : AllocEvent N) : (receiveEvent s e).pending = s.pending := rfl
@[simp] theorem receiveEvent_active (e : AllocEvent N) : (receiveEvent s e).active = s.active := rfl
@[simp] theorem receiveEvent_pendingValid (e : AllocEvent N) : (receiveEvent s e).pendingValid = s.pendingValid := rfl
@[simp] theorem receiveEvent_voices (e : AllocEvent N) : (receiveEvent s e).voices = s.voices := rfl
@[simp] theorem receiveEvent_held (e : AllocEvent N) : (receiveEvent s e).held = s.held := rfl
@[simp] theorem receiveEvent_arpRun (e : AllocEvent N) : (receiveEvent s e).arpRun = s.arpRun := rfl
@[simp] theorem receiveEvent_arpIdx (e : AllocEvent N) : (receiveEvent s e).arpIdx = s.arpIdx := rfl
@[simp] theorem receiveEvent_arpDir (e : AllocEvent N) : (receiveEvent s e).arpDir = s.arpDir := rfl
@[simp] theorem receiveEvent_arpAcc (e : AllocEvent N) : (receiveEvent s e).arpAcc = s.arpAcc := rfl
@[simp] theorem receiveEvent_arpStep (e : AllocEvent N) : (receiveEvent s e).arpStep = s.arpStep := rfl
@[simp] theorem receiveEvent_arpLen (e : AllocEvent N) : (receiveEvent s e).arpLen = s.arpLen := rfl
@[simp] theorem receiveEvent_arpBase (e : AllocEvent N) : (receiveEvent s e).arpBase = s.arpBase := rfl
@[simp] theorem receiveEvent_arpNote (e : AllocEvent N) : (receiveEvent s e).arpNote = s.arpNote := rfl
@[simp] theorem receiveEvent_arpGateOpen (e : AllocEvent N) : (receiveEvent s e).arpGateOpen = s.arpGateOpen := rfl
@[simp] theorem receiveEvent_draws (e : AllocEvent N) : (receiveEvent s e).draws = s.draws := rfl
@[simp] theorem receiveEvent_events (e : AllocEvent N) : (receiveEvent s e).events = s.events ++ [e] := rfl

/-! ## `releaseActive` -/

@[simp] theorem releaseActive_time : (releaseActive P s).time = s.time := rfl
@[simp] theorem releaseActive_rrCursor : (releaseActive P s).rrCursor = s.rrCursor := rfl
@[simp] theorem releaseActive_modWheel : (releaseActive P s).modWheel = s.modWheel := rfl
@[simp] theorem releaseActive_aftertouch : (releaseActive P s).aftertouch = s.aftertouch := rfl
@[simp] theorem releaseActive_pitchBend : (releaseActive P s).pitchBend = s.pitchBend := rfl
@[simp] theorem releaseActive_lfoIn : (releaseActive P s).lfoIn = s.lfoIn := rfl
@[simp] theorem releaseActive_cmdq : (releaseActive P s).cmdq = s.cmdq := rfl
@[simp] theorem releaseActive_outL : (releaseActive P s).outL = s.outL := rfl
@[simp] theorem releaseActive_outR : (releaseActive P s).outR = s.outR := rfl
@[simp] theorem releaseActive_shadow : (releaseActive P s).shadow = s.shadow := rfl
@[simp] theorem releaseActive_pending : (releaseActive P s).pending = s.pending := rfl
@[simp] theorem releaseActive_active : (releaseActive P s).active = s.active := rfl
@[simp] theorem releaseActive_pendingValid : (releaseActive P s).pendingValid = s.pendingValid := rfl
@[simp] theorem releaseActive_voices : (releaseActive P s).voices = s.voices.map fun v => if isActive P s.active v then voiceNoteOff P s.active v else v := rfl
@[simp] theorem releaseActive_held : (releaseActive P s).held = s.held := rfl
@[simp] theorem releaseActive_arpRun : (releaseActive P s).arpRun = s.arpRun := rfl
@[simp] theorem releaseActive_arpIdx : (releaseActive P s).arpIdx = s.arpIdx := rfl
@[simp] theorem releaseActive_arpDir : (releaseActive P s).arpDir = s.arpDir := rfl
@[simp] theorem releaseActive_arpAcc : (releaseActive P s).arpAcc = s.arpAcc := rfl
@[simp] theorem releaseActive_arpStep : (releaseActive P s).arpStep = s.arpStep := rfl
@[simp] theorem releaseActive_arpLen : (releaseActive P s).arpLen = s.arpLen := rfl
@[simp] theorem releaseActive_arpBase : (releaseActive P s).arpBase = s.arpBase := rfl
@[simp] theorem releaseActive_arpNote : (releaseActive P s).arpNote = s.arpNote := rfl
@[simp] theorem releaseActive_arpGateOpen : (releaseActive P s).arpGateOpen = s.arpGateOpen := rfl
@[simp] theorem releaseActive_draws : (releaseActive P s).draws = s.draws := rfl
@[simp] theorem releaseActive_events : (releaseActive P s).events = s.events := rfl

/-! ## `writeActive` -/

@[simp] theorem writeActive_time (r : Reg) (w : ParamWord) : (writeActive P s r w).time = s.time := rfl
@[simp] theorem writeActive_rrCursor (r : Reg) (w : ParamWord) : (writeActive P s r w).rrCursor = s.rrCursor := rfl
@[simp] theorem writeActive_modWheel (r : Reg) (w : ParamWord) : (writeActive P s r w).modWheel = s.modWheel := rfl
@[simp] theorem writeActive_aftertouch (r : Reg) (w : ParamWord) : (writeActive P s r w).aftertouch = s.aftertouch := rfl
@[simp] theorem writeActive_pitchBend (r : Reg) (w : ParamWord) : (writeActive P s r w).pitchBend = s.pitchBend := rfl
@[simp] theorem writeActive_lfoIn (r : Reg) (w : ParamWord) : (writeActive P s r w).lfoIn = s.lfoIn := rfl
@[simp] theorem writeActive_cmdq (r : Reg) (w : ParamWord) : (writeActive P s r w).cmdq = s.cmdq := rfl
@[simp] theorem writeActive_outL (r : Reg) (w : ParamWord) : (writeActive P s r w).outL = s.outL := rfl
@[simp] theorem writeActive_outR (r : Reg) (w : ParamWord) : (writeActive P s r w).outR = s.outR := rfl
@[simp] theorem writeActive_shadow (r : Reg) (w : ParamWord) : (writeActive P s r w).shadow = s.shadow := rfl
@[simp] theorem writeActive_pending (r : Reg) (w : ParamWord) : (writeActive P s r w).pending = s.pending := rfl
@[simp] theorem writeActive_active (r : Reg) (w : ParamWord) : (writeActive P s r w).active = bankWrite P.pool s.active r w := rfl
@[simp] theorem writeActive_pendingValid (r : Reg) (w : ParamWord) : (writeActive P s r w).pendingValid = s.pendingValid := rfl
@[simp] theorem writeActive_voices (r : Reg) (w : ParamWord) : (writeActive P s r w).voices = s.voices := rfl
@[simp] theorem writeActive_held (r : Reg) (w : ParamWord) : (writeActive P s r w).held = s.held := rfl
@[simp] theorem writeActive_arpRun (r : Reg) (w : ParamWord) : (writeActive P s r w).arpRun = s.arpRun := rfl
@[simp] theorem writeActive_arpIdx (r : Reg) (w : ParamWord) : (writeActive P s r w).arpIdx = s.arpIdx := rfl
@[simp] theorem writeActive_arpDir (r : Reg) (w : ParamWord) : (writeActive P s r w).arpDir = s.arpDir := rfl
@[simp] theorem writeActive_arpAcc (r : Reg) (w : ParamWord) : (writeActive P s r w).arpAcc = s.arpAcc := rfl
@[simp] theorem writeActive_arpStep (r : Reg) (w : ParamWord) : (writeActive P s r w).arpStep = s.arpStep := rfl
@[simp] theorem writeActive_arpLen (r : Reg) (w : ParamWord) : (writeActive P s r w).arpLen = s.arpLen := rfl
@[simp] theorem writeActive_arpBase (r : Reg) (w : ParamWord) : (writeActive P s r w).arpBase = s.arpBase := rfl
@[simp] theorem writeActive_arpNote (r : Reg) (w : ParamWord) : (writeActive P s r w).arpNote = s.arpNote := rfl
@[simp] theorem writeActive_arpGateOpen (r : Reg) (w : ParamWord) : (writeActive P s r w).arpGateOpen = s.arpGateOpen := rfl
@[simp] theorem writeActive_draws (r : Reg) (w : ParamWord) : (writeActive P s r w).draws = s.draws := rfl
@[simp] theorem writeActive_events (r : Reg) (w : ParamWord) : (writeActive P s r w).events = s.events := rfl

/-! ## `publish` -/

@[simp] theorem publish_time : (publish s).time = s.time := rfl
@[simp] theorem publish_rrCursor : (publish s).rrCursor = s.rrCursor := rfl
@[simp] theorem publish_modWheel : (publish s).modWheel = s.modWheel := rfl
@[simp] theorem publish_aftertouch : (publish s).aftertouch = s.aftertouch := rfl
@[simp] theorem publish_pitchBend : (publish s).pitchBend = s.pitchBend := rfl
@[simp] theorem publish_lfoIn : (publish s).lfoIn = s.lfoIn := rfl
@[simp] theorem publish_cmdq : (publish s).cmdq = s.cmdq := rfl
@[simp] theorem publish_outL : (publish s).outL = s.outL := rfl
@[simp] theorem publish_outR : (publish s).outR = s.outR := rfl
@[simp] theorem publish_shadow : (publish s).shadow = s.shadow := rfl
@[simp] theorem publish_pending : (publish s).pending = s.shadow := rfl
@[simp] theorem publish_active : (publish s).active = s.active := rfl
@[simp] theorem publish_pendingValid : (publish s).pendingValid = true := rfl
@[simp] theorem publish_voices : (publish s).voices = s.voices := rfl
@[simp] theorem publish_held : (publish s).held = s.held := rfl
@[simp] theorem publish_arpRun : (publish s).arpRun = s.arpRun := rfl
@[simp] theorem publish_arpIdx : (publish s).arpIdx = s.arpIdx := rfl
@[simp] theorem publish_arpDir : (publish s).arpDir = s.arpDir := rfl
@[simp] theorem publish_arpAcc : (publish s).arpAcc = s.arpAcc := rfl
@[simp] theorem publish_arpStep : (publish s).arpStep = s.arpStep := rfl
@[simp] theorem publish_arpLen : (publish s).arpLen = s.arpLen := rfl
@[simp] theorem publish_arpBase : (publish s).arpBase = s.arpBase := rfl
@[simp] theorem publish_arpNote : (publish s).arpNote = s.arpNote := rfl
@[simp] theorem publish_arpGateOpen : (publish s).arpGateOpen = s.arpGateOpen := rfl
@[simp] theorem publish_draws : (publish s).draws = s.draws := rfl
@[simp] theorem publish_events : (publish s).events = s.events := rfl

/-! ## `updateBase` -/

@[simp] theorem updateBase_time : (updateBase P s).time = s.time := rfl
@[simp] theorem updateBase_rrCursor : (updateBase P s).rrCursor = s.rrCursor := rfl
@[simp] theorem updateBase_modWheel : (updateBase P s).modWheel = s.modWheel := rfl
@[simp] theorem updateBase_aftertouch : (updateBase P s).aftertouch = s.aftertouch := rfl
@[simp] theorem updateBase_pitchBend : (updateBase P s).pitchBend = s.pitchBend := rfl
@[simp] theorem updateBase_lfoIn : (updateBase P s).lfoIn = s.lfoIn := rfl
@[simp] theorem updateBase_cmdq : (updateBase P s).cmdq = s.cmdq := rfl
@[simp] theorem updateBase_outL : (updateBase P s).outL = s.outL := rfl
@[simp] theorem updateBase_outR : (updateBase P s).outR = s.outR := rfl
@[simp] theorem updateBase_shadow : (updateBase P s).shadow = s.shadow := rfl
@[simp] theorem updateBase_pending : (updateBase P s).pending = s.pending := rfl
@[simp] theorem updateBase_active : (updateBase P s).active = s.active := rfl
@[simp] theorem updateBase_pendingValid : (updateBase P s).pendingValid = s.pendingValid := rfl
@[simp] theorem updateBase_voices : (updateBase P s).voices = s.voices := rfl
@[simp] theorem updateBase_held : (updateBase P s).held = s.held := rfl
@[simp] theorem updateBase_arpRun : (updateBase P s).arpRun = s.arpRun := rfl
@[simp] theorem updateBase_arpIdx : (updateBase P s).arpIdx = s.arpIdx := rfl
@[simp] theorem updateBase_arpDir : (updateBase P s).arpDir = s.arpDir := rfl
@[simp] theorem updateBase_arpAcc : (updateBase P s).arpAcc = s.arpAcc := rfl
@[simp] theorem updateBase_arpStep : (updateBase P s).arpStep = s.arpStep := rfl
@[simp] theorem updateBase_arpLen : (updateBase P s).arpLen = s.arpLen := rfl
@[simp] theorem updateBase_arpBase : (updateBase P s).arpBase = baseLength P s.active := rfl
@[simp] theorem updateBase_arpNote : (updateBase P s).arpNote = s.arpNote := rfl
@[simp] theorem updateBase_arpGateOpen : (updateBase P s).arpGateOpen = s.arpGateOpen := rfl
@[simp] theorem updateBase_draws : (updateBase P s).draws = s.draws := rfl
@[simp] theorem updateBase_events : (updateBase P s).events = s.events := rfl

/-! ## `advanceTime` -/

@[simp] theorem advanceTime_time : (advanceTime s).time = s.time + 1 := rfl
@[simp] theorem advanceTime_rrCursor : (advanceTime s).rrCursor = s.rrCursor := rfl
@[simp] theorem advanceTime_modWheel : (advanceTime s).modWheel = s.modWheel := rfl
@[simp] theorem advanceTime_aftertouch : (advanceTime s).aftertouch = s.aftertouch := rfl
@[simp] theorem advanceTime_pitchBend : (advanceTime s).pitchBend = s.pitchBend := rfl
@[simp] theorem advanceTime_lfoIn : (advanceTime s).lfoIn = s.lfoIn := rfl
@[simp] theorem advanceTime_cmdq : (advanceTime s).cmdq = s.cmdq := rfl
@[simp] theorem advanceTime_outL : (advanceTime s).outL = s.outL := rfl
@[simp] theorem advanceTime_outR : (advanceTime s).outR = s.outR := rfl
@[simp] theorem advanceTime_shadow : (advanceTime s).shadow = s.shadow := rfl
@[simp] theorem advanceTime_pending : (advanceTime s).pending = s.pending := rfl
@[simp] theorem advanceTime_active : (advanceTime s).active = s.active := rfl
@[simp] theorem advanceTime_pendingValid : (advanceTime s).pendingValid = s.pendingValid := rfl
@[simp] theorem advanceTime_voices : (advanceTime s).voices = s.voices := rfl
@[simp] theorem advanceTime_held : (advanceTime s).held = s.held := rfl
@[simp] theorem advanceTime_arpRun : (advanceTime s).arpRun = s.arpRun := rfl
@[simp] theorem advanceTime_arpIdx : (advanceTime s).arpIdx = s.arpIdx := rfl
@[simp] theorem advanceTime_arpDir : (advanceTime s).arpDir = s.arpDir := rfl
@[simp] theorem advanceTime_arpAcc : (advanceTime s).arpAcc = s.arpAcc := rfl
@[simp] theorem advanceTime_arpStep : (advanceTime s).arpStep = s.arpStep := rfl
@[simp] theorem advanceTime_arpLen : (advanceTime s).arpLen = s.arpLen := rfl
@[simp] theorem advanceTime_arpBase : (advanceTime s).arpBase = s.arpBase := rfl
@[simp] theorem advanceTime_arpNote : (advanceTime s).arpNote = s.arpNote := rfl
@[simp] theorem advanceTime_arpGateOpen : (advanceTime s).arpGateOpen = s.arpGateOpen := rfl
@[simp] theorem advanceTime_draws : (advanceTime s).draws = s.draws := rfl
@[simp] theorem advanceTime_events : (advanceTime s).events = s.events := rfl

/-! ## `renderVoices` -/

@[simp] theorem renderVoices_time : (renderVoices P s).time = s.time := rfl
@[simp] theorem renderVoices_rrCursor : (renderVoices P s).rrCursor = s.rrCursor := rfl
@[simp] theorem renderVoices_modWheel : (renderVoices P s).modWheel = s.modWheel := rfl
@[simp] theorem renderVoices_aftertouch : (renderVoices P s).aftertouch = s.aftertouch := rfl
@[simp] theorem renderVoices_pitchBend : (renderVoices P s).pitchBend = s.pitchBend := rfl
@[simp] theorem renderVoices_lfoIn : (renderVoices P s).lfoIn = s.lfoIn := rfl
@[simp] theorem renderVoices_cmdq : (renderVoices P s).cmdq = s.cmdq := rfl
@[simp] theorem renderVoices_outL : (renderVoices P s).outL = numSum P ((s.voices.map (voiceRender P s)).map Prod.fst) := rfl
@[simp] theorem renderVoices_outR : (renderVoices P s).outR = numSum P ((s.voices.map (voiceRender P s)).map Prod.fst) := rfl
@[simp] theorem renderVoices_shadow : (renderVoices P s).shadow = s.shadow := rfl
@[simp] theorem renderVoices_pending : (renderVoices P s).pending = s.pending := rfl
@[simp] theorem renderVoices_active : (renderVoices P s).active = s.active := rfl
@[simp] theorem renderVoices_pendingValid : (renderVoices P s).pendingValid = s.pendingValid := rfl
@[simp] theorem renderVoices_voices : (renderVoices P s).voices = (s.voices.map (voiceRender P s)).map Prod.snd := rfl
@[simp] theorem renderVoices_held : (renderVoices P s).held = s.held := rfl
@[simp] theorem renderVoices_arpRun : (renderVoices P s).arpRun = s.arpRun := rfl
@[simp] theorem renderVoices_arpIdx : (renderVoices P s).arpIdx = s.arpIdx := rfl
@[simp] theorem renderVoices_arpDir : (renderVoices P s).arpDir = s.arpDir := rfl
@[simp] theorem renderVoices_arpAcc : (renderVoices P s).arpAcc = s.arpAcc := rfl
@[simp] theorem renderVoices_arpStep : (renderVoices P s).arpStep = s.arpStep := rfl
@[simp] theorem renderVoices_arpLen : (renderVoices P s).arpLen = s.arpLen := rfl
@[simp] theorem renderVoices_arpBase : (renderVoices P s).arpBase = s.arpBase := rfl
@[simp] theorem renderVoices_arpNote : (renderVoices P s).arpNote = s.arpNote := rfl
@[simp] theorem renderVoices_arpGateOpen : (renderVoices P s).arpGateOpen = s.arpGateOpen := rfl
@[simp] theorem renderVoices_draws : (renderVoices P s).draws = s.draws := rfl
@[simp] theorem renderVoices_events : (renderVoices P s).events = s.events := rfl

/-! ## `arpClear` -/

@[simp] theorem arpClear_time : (arpClear s).time = s.time := rfl
@[simp] theorem arpClear_rrCursor : (arpClear s).rrCursor = s.rrCursor := rfl
@[simp] theorem arpClear_modWheel : (arpClear s).modWheel = s.modWheel := rfl
@[simp] theorem arpClear_aftertouch : (arpClear s).aftertouch = s.aftertouch := rfl
@[simp] theorem arpClear_pitchBend : (arpClear s).pitchBend = s.pitchBend := rfl
@[simp] theorem arpClear_lfoIn : (arpClear s).lfoIn = s.lfoIn := rfl
@[simp] theorem arpClear_cmdq : (arpClear s).cmdq = s.cmdq := rfl
@[simp] theorem arpClear_outL : (arpClear s).outL = s.outL := rfl
@[simp] theorem arpClear_outR : (arpClear s).outR = s.outR := rfl
@[simp] theorem arpClear_shadow : (arpClear s).shadow = s.shadow := rfl
@[simp] theorem arpClear_pending : (arpClear s).pending = s.pending := rfl
@[simp] theorem arpClear_active : (arpClear s).active = s.active := rfl
@[simp] theorem arpClear_pendingValid : (arpClear s).pendingValid = s.pendingValid := rfl
@[simp] theorem arpClear_voices : (arpClear s).voices = s.voices := rfl
@[simp] theorem arpClear_held : (arpClear s).held = [] := rfl
@[simp] theorem arpClear_arpRun : (arpClear s).arpRun = false := rfl
@[simp] theorem arpClear_arpIdx : (arpClear s).arpIdx = s.arpIdx := rfl
@[simp] theorem arpClear_arpDir : (arpClear s).arpDir = s.arpDir := rfl
@[simp] theorem arpClear_arpAcc : (arpClear s).arpAcc = s.arpAcc := rfl
@[simp] theorem arpClear_arpStep : (arpClear s).arpStep = s.arpStep := rfl
@[simp] theorem arpClear_arpLen : (arpClear s).arpLen = s.arpLen := rfl
@[simp] theorem arpClear_arpBase : (arpClear s).arpBase = s.arpBase := rfl
@[simp] theorem arpClear_arpNote : (arpClear s).arpNote = s.arpNote := rfl
@[simp] theorem arpClear_arpGateOpen : (arpClear s).arpGateOpen = false := rfl
@[simp] theorem arpClear_draws : (arpClear s).draws = s.draws := rfl
@[simp] theorem arpClear_events : (arpClear s).events = s.events := rfl

/-! ## `startLength` -/

@[simp] theorem startLength_time : (startLength P s).time = s.time := rfl
@[simp] theorem startLength_rrCursor : (startLength P s).rrCursor = s.rrCursor := rfl
@[simp] theorem startLength_modWheel : (startLength P s).modWheel = s.modWheel := rfl
@[simp] theorem startLength_aftertouch : (startLength P s).aftertouch = s.aftertouch := rfl
@[simp] theorem startLength_pitchBend : (startLength P s).pitchBend = s.pitchBend := rfl
@[simp] theorem startLength_lfoIn : (startLength P s).lfoIn = s.lfoIn := rfl
@[simp] theorem startLength_cmdq : (startLength P s).cmdq = s.cmdq := rfl
@[simp] theorem startLength_outL : (startLength P s).outL = s.outL := rfl
@[simp] theorem startLength_outR : (startLength P s).outR = s.outR := rfl
@[simp] theorem startLength_shadow : (startLength P s).shadow = s.shadow := rfl
@[simp] theorem startLength_pending : (startLength P s).pending = s.pending := rfl
@[simp] theorem startLength_active : (startLength P s).active = s.active := rfl
@[simp] theorem startLength_pendingValid : (startLength P s).pendingValid = s.pendingValid := rfl
@[simp] theorem startLength_voices : (startLength P s).voices = s.voices := rfl
@[simp] theorem startLength_held : (startLength P s).held = s.held := rfl
@[simp] theorem startLength_arpRun : (startLength P s).arpRun = s.arpRun := rfl
@[simp] theorem startLength_arpIdx : (startLength P s).arpIdx = s.arpIdx := rfl
@[simp] theorem startLength_arpDir : (startLength P s).arpDir = s.arpDir := rfl
@[simp] theorem startLength_arpAcc : (startLength P s).arpAcc = s.arpAcc := rfl
@[simp] theorem startLength_arpStep : (startLength P s).arpStep = s.arpStep := rfl
@[simp] theorem startLength_arpLen : (startLength P s).arpLen = stepLength P s s.arpStep := rfl
@[simp] theorem startLength_arpBase : (startLength P s).arpBase = s.arpBase := rfl
@[simp] theorem startLength_arpNote : (startLength P s).arpNote = s.arpNote := rfl
@[simp] theorem startLength_arpGateOpen : (startLength P s).arpGateOpen = s.arpGateOpen := rfl
@[simp] theorem startLength_draws : (startLength P s).draws = s.draws + 1 := rfl
@[simp] theorem startLength_events : (startLength P s).events = s.events := rfl

/-! ## `State.onEngine` -/

@[simp] theorem onEngine_toEngine (t : State) (rule : RefEngine → RefEngine) :
    (t.onEngine rule).toEngine = rule t.toEngine := rfl
@[simp] theorem onEngine_stimulus (t : State) (rule : RefEngine → RefEngine) :
    (t.onEngine rule).stimulus = t.stimulus := rfl

/-! ## `mapEngine` -/

@[simp] theorem mapEngine_time {M : Type} (f : M → N) (t : Engine M Post) :
    (mapEngine f t).time = t.time := rfl
@[simp] theorem mapEngine_rrCursor {M : Type} (f : M → N) (t : Engine M Post) :
    (mapEngine f t).rrCursor = t.rrCursor := rfl
@[simp] theorem mapEngine_modWheel {M : Type} (f : M → N) (t : Engine M Post) :
    (mapEngine f t).modWheel = f t.modWheel := rfl
@[simp] theorem mapEngine_aftertouch {M : Type} (f : M → N) (t : Engine M Post) :
    (mapEngine f t).aftertouch = f t.aftertouch := rfl
@[simp] theorem mapEngine_pitchBend {M : Type} (f : M → N) (t : Engine M Post) :
    (mapEngine f t).pitchBend = f t.pitchBend := rfl
@[simp] theorem mapEngine_lfoIn {M : Type} (f : M → N) (t : Engine M Post) :
    (mapEngine f t).lfoIn = f t.lfoIn := rfl
@[simp] theorem mapEngine_cmdq {M : Type} (f : M → N) (t : Engine M Post) :
    (mapEngine f t).cmdq = t.cmdq := rfl
@[simp] theorem mapEngine_outL {M : Type} (f : M → N) (t : Engine M Post) :
    (mapEngine f t).outL = f t.outL := rfl
@[simp] theorem mapEngine_outR {M : Type} (f : M → N) (t : Engine M Post) :
    (mapEngine f t).outR = f t.outR := rfl
@[simp] theorem mapEngine_shadow {M : Type} (f : M → N) (t : Engine M Post) :
    (mapEngine f t).shadow = t.shadow := rfl
@[simp] theorem mapEngine_pending {M : Type} (f : M → N) (t : Engine M Post) :
    (mapEngine f t).pending = t.pending := rfl
@[simp] theorem mapEngine_active {M : Type} (f : M → N) (t : Engine M Post) :
    (mapEngine f t).active = t.active := rfl
@[simp] theorem mapEngine_pendingValid {M : Type} (f : M → N) (t : Engine M Post) :
    (mapEngine f t).pendingValid = t.pendingValid := rfl
@[simp] theorem mapEngine_voices {M : Type} (f : M → N) (t : Engine M Post) :
    (mapEngine f t).voices = t.voices.map (mapVoice f) := rfl
@[simp] theorem mapEngine_held {M : Type} (f : M → N) (t : Engine M Post) :
    (mapEngine f t).held = t.held := rfl
@[simp] theorem mapEngine_arpRun {M : Type} (f : M → N) (t : Engine M Post) :
    (mapEngine f t).arpRun = t.arpRun := rfl
@[simp] theorem mapEngine_arpIdx {M : Type} (f : M → N) (t : Engine M Post) :
    (mapEngine f t).arpIdx = t.arpIdx := rfl
@[simp] theorem mapEngine_arpDir {M : Type} (f : M → N) (t : Engine M Post) :
    (mapEngine f t).arpDir = t.arpDir := rfl
@[simp] theorem mapEngine_arpAcc {M : Type} (f : M → N) (t : Engine M Post) :
    (mapEngine f t).arpAcc = f t.arpAcc := rfl
@[simp] theorem mapEngine_arpStep {M : Type} (f : M → N) (t : Engine M Post) :
    (mapEngine f t).arpStep = t.arpStep := rfl
@[simp] theorem mapEngine_arpLen {M : Type} (f : M → N) (t : Engine M Post) :
    (mapEngine f t).arpLen = f t.arpLen := rfl
@[simp] theorem mapEngine_arpBase {M : Type} (f : M → N) (t : Engine M Post) :
    (mapEngine f t).arpBase = f t.arpBase := rfl
@[simp] theorem mapEngine_arpNote {M : Type} (f : M → N) (t : Engine M Post) :
    (mapEngine f t).arpNote = t.arpNote := rfl
@[simp] theorem mapEngine_arpGateOpen {M : Type} (f : M → N) (t : Engine M Post) :
    (mapEngine f t).arpGateOpen = t.arpGateOpen := rfl
@[simp] theorem mapEngine_draws {M : Type} (f : M → N) (t : Engine M Post) :
    (mapEngine f t).draws = t.draws := rfl
@[simp] theorem mapEngine_events {M : Type} (f : M → N) (t : Engine M Post) :
    (mapEngine f t).events = t.events.map (mapEvent f) := rfl

end Sys2Proof.Machine
end

