-- ==== Sys2Proof/Laws/Ops.lean ====
section
/-! SUPPORT. What each shared operation can change: one equation per operation, which says that every field it does not name
is as before. -/

namespace Sys2Proof.Machine

variable {N Post : Type} (P : Config.Params N Post)

/-! ## The allocator -/

/-- A steal moves nothing but RR_CURSOR. -/
theorem stealSelect_frame (s : Engine N Post) :
    (stealSelect P s).2 = { s with rrCursor := (stealSelect P s).2.rrCursor } := by
  unfold stealSelect
  split
  · split <;> rfl
  · rfl

/-- The choice of a slot moves nothing but RR_CURSOR. -/
theorem allocSelect_frame (s : Engine N Post) (n : Note) :
    (allocSelect P s n).2 = { s with rrCursor := (allocSelect P s n).2.rrCursor } := by
  unfold allocSelect
  split
  · rfl
  · split
    · rfl
    · exact stealSelect_frame P s

/-- `Alloc.noteOn` as one update: RR_CURSOR, one slot and the event. -/
theorem allocNoteOn_frame (s : Engine N Post) (n : Note) (vel : N) :
    allocNoteOn P s n vel =
      { s with
        rrCursor := (allocSelect P s n).2.rrCursor
        voices := s.voices.modify (allocSelect P s n).1 (voiceNoteOn P s.active s.time n vel)
        events := s.events ++ [.noteOn n vel] } := by
  unfold allocNoteOn
  rw [allocSelect_frame P s n]
  rfl

/-- A release changes nothing but the pool. -/
theorem releaseNote_frame (s : Engine N Post) (n : Note) :
    releaseNote P s n = { s with voices := (releaseNote P s n).voices } := by
  unfold releaseNote
  split <;> rfl

/-- `Alloc.noteOff` changes nothing but the pool and the events received. -/
theorem allocNoteOff_frame (s : Engine N Post) (n : Note) :
    allocNoteOff P s n = { s with voices := (releaseNote P s n).voices, events := s.events ++ [.noteOff n] } := by
  unfold allocNoteOff
  rw [releaseNote_frame]
  rfl

/-- With no Active voice on the note, `Alloc.noteOff` is received and does nothing. -/
theorem allocNoteOff_none {s : Engine N Post} {n : Note} (h : noteOffSlot P s n = none) :
    allocNoteOff P s n = { s with events := s.events ++ [.noteOff n] } := by
  simp [allocNoteOff, releaseNote, receiveEvent, h]

/-! ## The arpeggiator -/

/-- SELECT moves nothing but ARP_IDX, ARP_DIR and the draw counter. -/
theorem selectStep_frame (s : Engine N Post) (len : Nat) :
    (selectStep P s len).2 =
      { s with
        arpIdx := (selectStep P s len).2.arpIdx
        arpDir := (selectStep P s len).2.arpDir
        draws := (selectStep P s len).2.draws } := by
  unfold selectStep
  split <;> rfl

/-- ARP_FIRE as one update. -/
theorem arpFire_frame (s : Engine N Post) :
    arpFire P s =
      { s with
        arpIdx := (arpFire P s).arpIdx
        arpDir := (arpFire P s).arpDir
        draws := (arpFire P s).draws
        arpNote := (arpFire P s).arpNote
        voices := (arpFire P s).voices
        events := (arpFire P s).events
        rrCursor := (arpFire P s).rrCursor
        arpGateOpen := true } := by
  unfold arpFire
  simp only [allocNoteOn_frame]
  rw [selectStep_frame]

/-- ARP_GATE_CLOSE as one update. -/
theorem arpGateClose_frame (s : Engine N Post) :
    arpGateClose P s =
      { s with
        voices := (arpGateClose P s).voices
        events := (arpGateClose P s).events
        arpGateOpen := false } := by
  unfold arpGateClose
  split
  · rw [allocNoteOff_frame]
  · next h => rw [Bool.not_eq_true] at h; rw [← h]

/-- ARP_STOP as one update. -/
theorem arpStop_frame (s : Engine N Post) :
    arpStop P s =
      { s with
        voices := (arpGateClose P s).voices
        events := (arpGateClose P s).events
        arpGateOpen := false
        arpRun := false } := by
  unfold arpStop
  conv_lhs => rw [arpGateClose_frame]

/-- ARP_DISABLE as one update. -/
theorem arpDisable_frame (s : Engine N Post) :
    arpDisable P s =
      { s with
        voices := (arpGateClose P s).voices
        events := (arpGateClose P s).events
        arpGateOpen := false
        arpRun := false
        held := [] } := by
  unfold arpDisable
  rw [arpStop_frame]

/-- The step end changes only the sequencer's own fields, the pool, the cursor, the draw counter and the events. -/
theorem arpStepEnd_frame (s : Engine N Post) :
    arpStepEnd P s =
      { s with
        arpAcc := (arpStepEnd P s).arpAcc
        arpStep := (arpStepEnd P s).arpStep
        arpLen := (arpStepEnd P s).arpLen
        arpIdx := (arpStepEnd P s).arpIdx
        arpDir := (arpStepEnd P s).arpDir
        draws := (arpStepEnd P s).draws
        arpNote := (arpStepEnd P s).arpNote
        voices := (arpStepEnd P s).voices
        events := (arpStepEnd P s).events
        rrCursor := (arpStepEnd P s).rrCursor
        arpGateOpen := (arpStepEnd P s).arpGateOpen } := by
  unfold arpStepEnd
  split
  · simp only
    rw [arpFire_frame, arpGateClose_frame]
    rfl
  · rfl

/-- The gate end changes only the pool and ARP_GATE_OPEN. -/
theorem arpGateEnd_frame (s : Engine N Post) :
    arpGateEnd P s =
      { s with
        voices := (arpGateEnd P s).voices
        events := (arpGateEnd P s).events
        arpGateOpen := (arpGateEnd P s).arpGateOpen } := by
  unfold arpGateEnd
  split
  · rw [arpGateClose_frame]
  · rfl

/-- ARP_TICK changes only the sequencer's own fields, the pool, the cursor, the draw counter and the events; not HELD, not ARP_RUN and
not ARP_BASE. -/
theorem arpTick_frame (s : Engine N Post) :
    arpTick P s =
      { s with
        arpAcc := (arpTick P s).arpAcc
        arpStep := (arpTick P s).arpStep
        arpLen := (arpTick P s).arpLen
        arpIdx := (arpTick P s).arpIdx
        arpDir := (arpTick P s).arpDir
        draws := (arpTick P s).draws
        arpNote := (arpTick P s).arpNote
        voices := (arpTick P s).voices
        events := (arpTick P s).events
        rrCursor := (arpTick P s).rrCursor
        arpGateOpen := (arpTick P s).arpGateOpen } := by
  unfold arpTick
  split
  · simp only
    rw [arpGateEnd_frame, arpStepEnd_frame]
  · rfl

/-! ## The block boundary -/

/-- An install changes ACTIVE, PENDING_VALID, HELD, ARP_RUN, ARP_GATE_OPEN and the pool, nothing else. -/
theorem install_frame (s : Engine N Post) :
    install P s =
      { s with
        active := (install P s).active
        pendingValid := false
        held := (install P s).held
        arpRun := (install P s).arpRun
        arpGateOpen := (install P s).arpGateOpen
        voices := (install P s).voices
        events := (install P s).events } := by
  unfold install
  split
  · simp only
    split
    · rw [arpDisable_frame]
    · rfl
  · next h => rw [Bool.not_eq_true] at h; rw [← h]

/-- A record changes nothing but ACTIVE. -/
theorem applyRecord_frame (r : Rec) (s : Engine N Post) :
    applyRecord P r s = { s with active := (applyRecord P r s).active } := by
  have stage : ∀ t line index rate level,
      applyStage P t line index rate level s =
        { s with active := (applyStage P t line index rate level s).active } := by
    intro t line index rate level
    unfold applyStage
    split
    · rfl
    · split <;> rfl
  have sustain : ∀ t line index,
      applySustain P t line index s = { s with active := (applySustain P t line index s).active } := by
    intro t line index
    unfold applySustain
    split
    · rfl
    · split <;> rfl
  have endOf : ∀ t line index,
      applyEnd P t line index s = { s with active := (applyEnd P t line index s).active } := by
    intro t line index
    unfold applyEnd
    split
    · rfl
    · split <;> rfl
  unfold applyRecord
  split
  all_goals first
    | exact stage _ _ _ _ _
    | exact sustain _ _ _
    | exact endOf _ _ _
    | rfl

theorem applyRecords_frame (rs : List Rec) (s : Engine N Post) :
    rs.foldl (fun s r => applyRecord P r s) s =
      { s with active := (rs.foldl (fun s r => applyRecord P r s) s).active } := by
  induction rs generalizing s with
  | nil => rfl
  | cons r rs ih =>
    rw [List.foldl_cons]
    refine (ih _).trans ?_
    generalize (rs.foldl (fun s r => applyRecord P r s) (applyRecord P r s)).active = after
    rw [applyRecord_frame]

/-- A drain empties CMDQ and changes nothing else but ACTIVE. -/
theorem drain_frame (s : Engine N Post) : drain P s = { s with cmdq := [], active := (drain P s).active } := by
  unfold drain
  conv_lhs => rw [applyRecords_frame]

/-- A block boundary leaves TIME, the latches, SHADOW, PENDING, and the outputs alone. -/
theorem blockBoundary_frame (s : Engine N Post) :
    blockBoundary P s =
      { s with
        active := (blockBoundary P s).active
        pendingValid := false
        cmdq := []
        arpBase := (blockBoundary P s).arpBase
        held := (blockBoundary P s).held
        arpRun := (blockBoundary P s).arpRun
        arpGateOpen := (blockBoundary P s).arpGateOpen
        voices := (blockBoundary P s).voices
        events := (blockBoundary P s).events } := by
  unfold blockBoundary updateBase
  rw [drain_frame, install_frame]

/-! ## The sample step -/

/-- A sample step leaves the latches, SHADOW and PENDING alone, and adds 1 to TIME. -/
theorem sampleStep_frame (s : Engine N Post) :
    (sampleStep P s).time = s.time + 1 ∧ (sampleStep P s).modWheel = s.modWheel ∧
      (sampleStep P s).aftertouch = s.aftertouch ∧ (sampleStep P s).pitchBend = s.pitchBend ∧
      (sampleStep P s).lfoIn = s.lfoIn ∧ (sampleStep P s).shadow = s.shadow ∧ (sampleStep P s).pending = s.pending := by
  unfold sampleStep
  rw [arpTick_frame]
  split
  · rw [blockBoundary_frame]
    simp
  · simp

/-- Off a block boundary a sample step leaves ACTIVE, PENDING_VALID, CMDQ, HELD, ARP_RUN and ARP_BASE alone. -/
theorem sampleStep_frame_inside (s : Engine N Post) (h : atBoundary P s = false) :
    (sampleStep P s).active = s.active ∧ (sampleStep P s).pendingValid = s.pendingValid ∧
      (sampleStep P s).cmdq = s.cmdq ∧ (sampleStep P s).held = s.held ∧ (sampleStep P s).arpRun = s.arpRun ∧
      (sampleStep P s).arpBase = s.arpBase := by
  unfold sampleStep
  rw [if_neg (by simp [h]), arpTick_frame]
  simp

/-- Sample steps add up. -/
theorem sampleSteps_add (m n : Nat) (s : Engine N Post) : sampleSteps P (m + n) s = sampleSteps P n (sampleSteps P m s) := by
  induction m generalizing s with
  | zero => simp [sampleSteps]
  | succ m ih => rw [Nat.succ_add]; exact ih (sampleStep P s)

theorem sampleSteps_one (s : Engine N Post) : sampleSteps P 1 s = sampleStep P s := rfl

/-- TIME after `n` sample steps. -/
theorem sampleSteps_time (n : Nat) (s : Engine N Post) : (sampleSteps P n s).time = s.time + BitVec.ofNat 64 n := by
  induction n generalizing s with
  | zero => simp [sampleSteps]
  | succ n ih =>
    rw [sampleSteps, ih, (sampleStep_frame P s).1, BitVec.add_assoc, BitVec.ofNat_add]
    exact congrArg (s.time + ·) (BitVec.add_comm _ _)

end Sys2Proof.Machine
end

