-- ==== Sys2Proof/WellFormed.lean ====
section
/-! DEFINITION. Well-formed instructions: every operand in the domain its field's row names (30_encoding.md R110,
R115). An operation word has no ill-formed operand (R101, R113); a record outside these domains still decodes
and still takes a FIFO slot, and APPLY ignores it (45_protocol.md R305). -/

namespace Sys2Proof

/-- LINE is 1 or 2 (30_encoding.md R110). -/
def lineOk (line : BitVec 2) : Bool := line == 1#2 || line == 2#2

/-- INDEX of a stage or end record is 0 to 7 (30_encoding.md R110, R115). -/
def pointOk (index : BitVec 4) : Bool := decide (index.toNat ≤ 7)

/-- INDEX of a sustain record is 0 to 7, or 0xF for none (30_encoding.md R110, R115). -/
def sustainOk (index : BitVec 4) : Bool := decide (index.toNat ≤ 7) || index == 15#4

/-- The record passes every test of 30_encoding.md R115; every operation word passes. -/
def Instr.wf : Instr → Bool
  | .nop | .noteOn _ _ | .noteOff _ | .allNotesOff | .setModwheel _ | .setAftertouch _ | .setPitchbend _
  | .reserved7 | .paramWrite _ _ | .snapPublish | .cmdPush _ | .setLfo _ | .reservedC | .reservedD
  | .reservedE | .tick _ => true
  | .dcwStage line index _ _ | .dcaStage line index _ _ | .pitchStage line index _ _ =>
      lineOk line && pointOk index
  | .dcwSustain line index | .dcaSustain line index | .pitchSustain line index =>
      lineOk line && sustainOk index
  | .dcwEnd line index | .dcaEnd line index | .pitchEnd line index => lineOk line && pointOk index
  | .cmdReserved9 | .cmdReserved10 | .cmdReserved11 | .cmdReserved12 | .cmdReserved13 | .cmdReserved14
  | .cmdReserved15 => false

end Sys2Proof
end

