-- ==== Sys2Proof/Laws/PerInstr.lean ====
section
/-! SUPPORT. Statements about each instruction as syntax, one lemma per constructor. -/

namespace Sys2Proof.Laws.ByteLength

/-- A command record takes six bytes and an operation word eight (30_encoding.md R110, R117). -/
def Statement (i : Instr) : Prop := (encodeBytes i).length = if i.isRecord then 6 else 8

theorem nop : Statement .nop := littleEndian_length _ _
theorem noteOn (a : Note) (b : Code) : Statement (.noteOn a b) := littleEndian_length _ _
theorem noteOff (a : Note) : Statement (.noteOff a) := littleEndian_length _ _
theorem allNotesOff : Statement .allNotesOff := littleEndian_length _ _
theorem setModwheel (a : Code) : Statement (.setModwheel a) := littleEndian_length _ _
theorem setAftertouch (a : Code) : Statement (.setAftertouch a) := littleEndian_length _ _
theorem setPitchbend (a : Code) : Statement (.setPitchbend a) := littleEndian_length _ _
theorem reserved7 : Statement .reserved7 := littleEndian_length _ _
theorem paramWrite (a : ParamAddr) (b : ParamWord) : Statement (.paramWrite a b) := littleEndian_length _ _
theorem snapPublish : Statement .snapPublish := littleEndian_length _ _
theorem cmdPush (a : Rec) : Statement (.cmdPush a) := littleEndian_length _ _
theorem setLfo (a : Code) : Statement (.setLfo a) := littleEndian_length _ _
theorem reservedC : Statement .reservedC := littleEndian_length _ _
theorem reservedD : Statement .reservedD := littleEndian_length _ _
theorem reservedE : Statement .reservedE := littleEndian_length _ _
theorem tick (a : BitVec 32) : Statement (.tick a) := littleEndian_length _ _
theorem dcwStage (a : BitVec 2) (b : BitVec 4) (c : Code) (d : Code) : Statement (.dcwStage a b c d) := littleEndian_length _ _
theorem dcaStage (a : BitVec 2) (b : BitVec 4) (c : Code) (d : Code) : Statement (.dcaStage a b c d) := littleEndian_length _ _
theorem pitchStage (a : BitVec 2) (b : BitVec 4) (c : Code) (d : Code) : Statement (.pitchStage a b c d) := littleEndian_length _ _
theorem dcwSustain (a : BitVec 2) (b : BitVec 4) : Statement (.dcwSustain a b) := littleEndian_length _ _
theorem dcaSustain (a : BitVec 2) (b : BitVec 4) : Statement (.dcaSustain a b) := littleEndian_length _ _
theorem pitchSustain (a : BitVec 2) (b : BitVec 4) : Statement (.pitchSustain a b) := littleEndian_length _ _
theorem dcwEnd (a : BitVec 2) (b : BitVec 4) : Statement (.dcwEnd a b) := littleEndian_length _ _
theorem dcaEnd (a : BitVec 2) (b : BitVec 4) : Statement (.dcaEnd a b) := littleEndian_length _ _
theorem pitchEnd (a : BitVec 2) (b : BitVec 4) : Statement (.pitchEnd a b) := littleEndian_length _ _
theorem cmdReserved9 : Statement .cmdReserved9 := littleEndian_length _ _
theorem cmdReserved10 : Statement .cmdReserved10 := littleEndian_length _ _
theorem cmdReserved11 : Statement .cmdReserved11 := littleEndian_length _ _
theorem cmdReserved12 : Statement .cmdReserved12 := littleEndian_length _ _
theorem cmdReserved13 : Statement .cmdReserved13 := littleEndian_length _ _
theorem cmdReserved14 : Statement .cmdReserved14 := littleEndian_length _ _
theorem cmdReserved15 : Statement .cmdReserved15 := littleEndian_length _ _

end Sys2Proof.Laws.ByteLength
end

