-- ==== Sys2Proof/Laws/Reference.lean ====
section
/-! SUPPORT. The parameters of the two reference instances, by `simp`: `ref`, which `exec` and `step` run, and `realRef`. -/

namespace Sys2Proof.Machine

/-! ## The instance that runs -/

@[simp] theorem ref_num : ref.num = exactNum := rfl
@[simp] theorem ref_tableSize : ref.tableSize = 2048 := rfl
@[simp] theorem ref_sineTable (k : Nat) : ref.sineTable k = exactSinTurn ((k : ℚ) / 2048) := rfl
@[simp] theorem ref_fs : ref.fs = 48000 := rfl
@[simp] theorem ref_pool : ref.pool = 8 := rfl
@[simp] theorem ref_blockLen : ref.blockLen = 64 := rfl
@[simp] theorem ref_envDecim : ref.envDecim = 8 := rfl
@[simp] theorem ref_cmdqCap : ref.cmdqCap = 64 := rfl
@[simp] theorem ref_heldMax : ref.heldMax = 16 := rfl
@[simp] theorem ref_fMin : ref.fMin = .rat 20 := rfl
@[simp] theorem ref_fMax : ref.fMax = .rat 20000 := rfl
@[simp] theorem ref_post (b : Bank) (st : Config.PostState) (m : Exact) : ref.post b st m = (m, st) := rfl
@[simp] theorem ref_postInit : ref.postInit = () := rfl
@[simp] theorem ref_swingMax : ref.swingMax = .rat (2 / 3) := rfl
@[simp] theorem ref_jitterMax : ref.jitterMax = .rat (1 / 2) := rfl
@[simp] theorem ref_arpFixedVel : ref.arpFixedVel = .rat 1 := rfl
@[simp] theorem ref_drawIdx : ref.drawIdx = Config.drawIdx := rfl
@[simp] theorem ref_drawJit (n : Nat) : ref.drawJit n = .draw n := rfl
@[simp] theorem numOf_ref (q : ℚ) : numOf ref q = .rat q := rfl

/-! ## The instance over ℝ -/

@[simp] theorem realRef_num : realRef.num = realNum := rfl
@[simp] theorem realRef_tableSize : realRef.tableSize = 2048 := rfl
@[simp] theorem realRef_fs : realRef.fs = 48000 := rfl
@[simp] theorem realRef_pool : realRef.pool = 8 := rfl
@[simp] theorem realRef_blockLen : realRef.blockLen = 64 := rfl
@[simp] theorem realRef_envDecim : realRef.envDecim = 8 := rfl
@[simp] theorem realRef_cmdqCap : realRef.cmdqCap = 64 := rfl
@[simp] theorem realRef_heldMax : realRef.heldMax = 16 := rfl
@[simp] theorem realRef_post (b : Bank) (st : Config.PostState) (m : ℝ) : realRef.post b st m = (m, st) := rfl
@[simp] theorem realRef_postInit : realRef.postInit = () := rfl
@[simp] theorem realRef_drawIdx : realRef.drawIdx = Config.drawIdx := rfl
@[simp] theorem realRef_drawJit (n : Nat) : realRef.drawJit n = Config.jitter.value n := rfl
@[simp] theorem numOf_realRef (q : ℚ) : numOf realRef q = (q : ℝ) := rfl
@[simp] theorem realRef_sineTable (k : Nat) : realRef.sineTable k = Real.sin (2 * Real.pi * ((k : ℚ) / 2048 : ℚ)) := rfl
@[simp] theorem realRef_fMin : realRef.fMin = ((20 : ℚ) : ℝ) := rfl
@[simp] theorem realRef_fMax : realRef.fMax = ((20000 : ℚ) : ℝ) := rfl
@[simp] theorem realRef_swingMax : realRef.swingMax = ((2 / 3 : ℚ) : ℝ) := rfl
@[simp] theorem realRef_jitterMax : realRef.jitterMax = ((1 / 2 : ℚ) : ℝ) := rfl
@[simp] theorem realRef_arpFixedVel : realRef.arpFixedVel = ((1 : ℚ) : ℝ) := rfl

end Sys2Proof.Machine
end

