-- ==== Sys2Proof/Tests/Slice0.lean ====
section
/-! SUPPORT. The model's own tests: well-formedness, decoding, one step of each instruction, and a witness for the hypotheses
of each statement. Each test names the rule of spec/ its expected values come from. -/

set_option Elab.async false

namespace Sys2Proof.Tests

open Sys2Proof Sys2Proof.Machine

/-! ## Well-formed instructions (30_encoding.md R110, R115) -/

theorem test_wf_stage : (Instr.dcwStage 1 7 0 0).wf = true := by decide
theorem test_wf_line_zero : (Instr.dcwStage 0 0 0 0).wf = false := by decide
theorem test_wf_line_three : (Instr.dcaEnd 3 0).wf = false := by decide
theorem test_wf_stage_index : (Instr.pitchStage 1 8 0 0).wf = false := by decide
theorem test_wf_sustain_none : (Instr.dcaSustain 2 15).wf = true := by decide
theorem test_wf_sustain_index : (Instr.dcwSustain 1 9).wf = false := by decide
theorem test_wf_sustain_index_fourteen : (Instr.pitchSustain 1 14).wf = false := by decide
theorem test_wf_end_none : (Instr.pitchEnd 1 15).wf = false := by decide
theorem test_wf_reserved_type : Instr.cmdReserved9.wf = false := by decide
theorem test_wf_operation : (Instr.tick 0xFFFFFFFF).wf = true := by decide

/-! ## Decoding: words written out from 30_encoding.md R100-R112 -/

theorem test_decode_nop : decodeWord 0x0000000000000000 = .nop := by decide
theorem test_decode_noteOn : decodeWord 0x100000008000003C = .noteOn 60 0x8000 := by decide
theorem test_decode_noteOn_ignored : decodeWord 0x1FFFFFFF1234FFBC = .noteOn 60 0x1234 := by decide
theorem test_decode_noteOff : decodeWord 0x200000000000007F = .noteOff 127 := by decide
theorem test_decode_allNotesOff : decodeWord 0x3000000000000000 = .allNotesOff := by decide
theorem test_decode_setModwheel : decodeWord 0x4000000000004000 = .setModwheel 0x4000 := by decide
theorem test_decode_setAftertouch : decodeWord 0x5000000000008000 = .setAftertouch 0x8000 := by decide
theorem test_decode_setPitchbend : decodeWord 0x600000000000FE00 = .setPitchbend 0xFE00 := by decide
theorem test_decode_reserved7 : decodeWord 0x7FFFFFFFFFFFFFFF = .reserved7 := by decide
theorem test_decode_paramWrite : decodeWord 0x8000011000000004 = .paramWrite 0x110 4 := by decide
theorem test_decode_paramWrite_top : decodeWord 0x800003FFDEADBEEF = .paramWrite 0x3FF 0xDEADBEEF := by decide
theorem test_decode_snapPublish : decodeWord 0x9000000000000000 = .snapPublish := by decide
theorem test_decode_cmdPush : decodeWord 0xA000400080000011 = .cmdPush 0x400080000011 := by decide
theorem test_decode_setLfo : decodeWord 0xB00000000000C000 = .setLfo 0xC000 := by decide
theorem test_decode_reservedC : decodeWord 0xC000000000000001 = .reservedC := by decide
theorem test_decode_reservedD : decodeWord 0xD000000000000001 = .reservedD := by decide
theorem test_decode_reservedE : decodeWord 0xE000000000000001 = .reservedE := by decide
theorem test_decode_tick : decodeWord 0xF0000000FFFFFFFF = .tick 0xFFFFFFFF := by decide
theorem test_decode_dcwStage : decodeRecord 0x8000123401E0 = .dcwStage 2 7 0x1234 0x8000 := by decide
theorem test_decode_dcaStage : decodeRecord 0x400080000011 = .dcaStage 1 0 0x8000 0x4000 := by decide
theorem test_decode_pitchStage : decodeRecord 0x2000FFFF0092 = .pitchStage 1 2 0xFFFF 0x2000 := by decide
theorem test_decode_dcwSustain : decodeRecord 0x000000000113 = .dcwSustain 1 4 := by decide
theorem test_decode_dcaSustain : decodeRecord 0x0000000003D4 = .dcaSustain 1 15 := by decide
theorem test_decode_pitchSustain : decodeRecord 0x000000000065 = .pitchSustain 2 1 := by decide
theorem test_decode_dcwEnd : decodeRecord 0x000000000096 = .dcwEnd 1 2 := by decide
theorem test_decode_dcaEnd : decodeRecord 0x0000000000D7 = .dcaEnd 1 3 := by decide
theorem test_decode_pitchEnd : decodeRecord 0x0000000001E8 = .pitchEnd 2 7 := by decide
theorem test_decode_cmdReserved9 : decodeRecord 0x000000000019 = .cmdReserved9 := by decide
theorem test_decode_cmdReserved10 : decodeRecord 0x00000000001A = .cmdReserved10 := by decide
theorem test_decode_cmdReserved11 : decodeRecord 0x00000000001B = .cmdReserved11 := by decide
theorem test_decode_cmdReserved12 : decodeRecord 0x00000000001C = .cmdReserved12 := by decide
theorem test_decode_cmdReserved13 : decodeRecord 0x00000000001D = .cmdReserved13 := by decide
theorem test_decode_cmdReserved14 : decodeRecord 0x00000000001E = .cmdReserved14 := by decide
theorem test_decode_cmdReserved15 : decodeRecord 0x00000000001F = .cmdReserved15 := by decide

/-- 20_memory.md R75: byte 0 holds bits [7:0]. -/
theorem test_decode_bytes :
    (decodeBytes [0x3C, 0x00, 0x00, 0x80, 0x00, 0x00, 0x00, 0x10]).toOption = some (.noteOn 60 0x8000, []) := by decide
theorem test_decode_bytes_truncated :
    (decodeBytes [0x3C, 0x00, 0x00, 0x80, 0x00, 0x00, 0x00]).toOption = none := by decide
theorem test_decodeTableWord_operation : decodeTableWord 64 0xF000000000000040 = some (.tick 64) := by decide
theorem test_decodeTableWord_record : decodeTableWord 48 0x0000000001E8 = some (.pitchEnd 2 7) := by decide

/-! ## Helpers -/

/-- The state an instruction leads to. -/
def after (i : Instr) (s : State) : State :=
  match exec i s with
  | .next t => t
  | .fault _ => s
  | .refused _ => s

/-- A bank with some registers written. -/
def bankWith (writes : List (Reg × ParamWord)) : Bank := writes.foldl (fun b p => bankWrite ref.pool b p.1 p.2) []

/-- A voice that sounds note `n`, triggered at `stamp`. -/
def sounding (n : Note) (stamp : BitVec 64) : RefVoice :=
  { Voice.reset ref with note := n, stamp := stamp, dca1 := { Env.reset ref with active := true } }

/-- The same voice after its note-off. -/
def releasing (n : Note) (stamp : BitVec 64) : RefVoice := { sounding n stamp with rel := true }

/-- The reset state with the first voices as given. -/
def withVoices (vs : List RefVoice) : State :=
  { State.reset with voices := vs ++ List.replicate (ref.pool - vs.length) (Voice.reset ref) }

/-- Eight sounding voices with notes 60 to 67, the one in slot 3 the oldest. -/
def fullPool : State :=
  withVoices [sounding 60 9, sounding 61 8, sounding 62 7, sounding 63 2, sounding 64 2, sounding 65 3, sounding 66 4,
    sounding 67 5]

/-- A bank with ARP_ON set (ARP_CTL 0x81, 10_state.md R44). -/
def arpBank : Bank := bankWith [(.arpCtl, 0x81)]

/-- The arpeggiator running over two keys with an open gate in slot 0. -/
def arpRunning : State :=
  { withVoices [sounding 60 0] with
    active := arpBank, held := [60, 64], arpRun := true, arpIdx := 1, arpNote := 60, arpGateOpen := true }

/-- What holds of every listed voice holds of every voice read by index. -/
theorem forall_take {vs : List RefVoice} {v : Nat} {P : RefVoice → Prop} (h : ∀ y ∈ vs.take v, P y) :
    ∀ (u : Nat) (y : RefVoice), u < v → vs[u]? = some y → P y := by
  intro u y hu hy
  refine h y (List.mem_of_getElem? (i := u) ?_)
  rw [List.getElem?_take_of_lt hu, hy]

/-! ## One step of each instruction -/

/-- 44_events.md R262, 43_voice.md R220, 42_envelope.md R187: on the reset state note 60 takes slot 0. -/
theorem test_noteOn_free :
    (after (.noteOn 60 0x8000) State.reset).voices[0]?.map (fun v => (v.note, v.vel, v.dca1.tgt, v.dca1.dur)) =
      some (60, .rat 1, .rat 1, 3) := by decide +kernel
/-- 44_events.md R265: equal least stamps in slots 3 and 4 go to slot 3. -/
theorem test_noteOn_steals :
    ((after (.noteOn 100 0x8000) fullPool).voices.map fun v => v.note) = [60, 61, 62, 100, 64, 65, 66, 67] := by
  decide +kernel
/-- 44_events.md R266: `noteoff 64` with notes 60 and 64 Active releases slot 1. -/
theorem test_noteOff_slot :
    ((after (.noteOff 64) (withVoices [sounding 60 0, sounding 64 0])).voices.map fun v => v.rel) =
      [false, true, false, false, false, false, false, false] := by decide +kernel
/-- 44_events.md R266: a Releasing voice is not matched; 00_scope.md R4: the allocator has received the event. -/
theorem test_noteOff_releasing :
    (after (.noteOff 60) (withVoices [releasing 60 0])) = { withVoices [releasing 60 0] with events := [.noteOff 60] } := by
  decide +kernel
/-- 44_events.md R268: slots 0 and 1 Active become Releasing, slot 2 Releasing stays. -/
theorem test_allNotesOff :
    ((after .allNotesOff (withVoices [sounding 60 0, sounding 64 0, releasing 67 0])).voices.map
      fun v => (v.rel, v.dca1.rel)) =
      [(true, true), (true, true), (true, false), (false, false), (false, false), (false, false), (false, false),
        (false, false)] := by decide +kernel
/-- 44_events.md R270. -/
theorem test_setModwheel : (after (.setModwheel 0x4000) State.reset).modWheel = .rat (1 / 2) := by decide +kernel
theorem test_setModwheel_clamps : (after (.setModwheel 0xFFFF) State.reset).modWheel = .rat 1 := by decide +kernel
/-- 44_events.md R271. -/
theorem test_setAftertouch : (after (.setAftertouch 0x8000) State.reset).aftertouch = .rat 1 := by decide +kernel
/-- 44_events.md R272. -/
theorem test_setPitchbend : (after (.setPitchbend 0xFE00) State.reset).pitchBend = .rat (-2) := by decide +kernel
/-- 44_events.md R273. -/
theorem test_setLfo : (after (.setLfo 0xC000) State.reset).lfoIn = .rat (-1) := by decide +kernel
theorem test_setLfo_clamps : (after (.setLfo 0x8000) State.reset).lfoIn = .rat (-1) := by decide +kernel
/-- 45_protocol.md R300, R306: SYS_CFG written with 4. -/
theorem test_paramWrite :
    bankRead ref.pool (after (.paramWrite 0x110 4) State.reset).shadow .sysCfg = 4 := by decide
theorem test_paramWrite_unmapped : after (.paramWrite 0x00B 4) State.reset = State.reset := by decide +kernel
/-- 45_protocol.md R301. -/
theorem test_snapPublish :
    (after .snapPublish (after (.paramWrite 0x110 4) State.reset)).pending = [(0x110, 4)] := by decide
/-- 45_protocol.md R302. -/
theorem test_cmdPush : (after (.cmdPush 0x400080000011) State.reset).cmdq = [0x400080000011] := by decide
theorem test_cmdPush_full :
    (after (.cmdPush 1) { State.reset with cmdq := List.replicate 64 0 }).cmdq = List.replicate 64 0 := by decide
/-- 47_sample_clock.md R391: the example's one sample step. -/
theorem test_tick_reset :
    after (.tick 1) State.reset = { State.reset with time := 1 } := by decide +kernel
/-- 45_protocol.md R310-R318: the example records' registers. -/
theorem test_dcwStage : (after (.dcwStage 2 7 0x1234 0x8000) State.reset).active = [(0x027, 0x80001234)] := by decide
theorem test_dcaStage : (after (.dcaStage 1 0 0x8000 0x4000) State.reset).active = [(0x040, 0x40008000)] := by decide
theorem test_pitchStage : (after (.pitchStage 1 2 0xFFFF 0x2000) State.reset).active = [(0x082, 0x20008000)] := by
  decide
theorem test_dcwSustain : (after (.dcwSustain 1 4) State.reset).active = [(0x008, 4)] := by decide
theorem test_dcaSustain : (after (.dcaSustain 1 15) State.reset).active = [(0x048, 15)] := by decide
theorem test_pitchSustain : (after (.pitchSustain 2 1) State.reset).active = [(0x0A8, 1)] := by decide
theorem test_pitchSustain_ignored : (after (.pitchSustain 2 9) State.reset).active = [] := by decide
theorem test_dcwEnd : (after (.dcwEnd 1 2) State.reset).active = [(0x009, 2)] := by decide
theorem test_dcaEnd : (after (.dcaEnd 1 3) State.reset).active = [(0x049, 3)] := by decide
theorem test_dcaEnd_reset_word : (after (.dcaEnd 1 1) State.reset).active = [] := by decide
theorem test_pitchEnd : (after (.pitchEnd 2 7) State.reset).active = [(0x0A9, 7)] := by decide
theorem test_pitchEnd_line : (after (.pitchEnd 3 7) State.reset).active = [] := by decide
/-- 30_encoding.md R113, R115; 47_sample_clock.md R394. -/
theorem test_nops :
    ∀ i ∈ [Instr.nop, .reserved7, .reservedC, .reservedD, .reservedE, .cmdReserved9, .cmdReserved10, .cmdReserved11,
      .cmdReserved12, .cmdReserved13, .cmdReserved14, .cmdReserved15], after i arpRunning = arpRunning := by decide +kernel
/-- 46_arpeggiator.md R341: the example's key press. -/
theorem test_arp_first_key :
    (fun t : State => (t.held, t.arpLen, t.arpNote, t.arpGateOpen, t.arpIdx))
      (after (.noteOn 60 0x8000) { State.reset with active := arpBank }) = ([60], .rat 6000, 60, true, 1) := by
  decide +kernel
/-- 46_arpeggiator.md R342: the example's key release. -/
theorem test_arp_key_up : (after (.noteOff 60) arpRunning).held = [64] := by decide +kernel

/-! ## The operations under the instructions -/

/-- 41_oscillator.md R142, 43_voice.md R226: note 69 at FS = 48000. -/
theorem test_incr_440 : incr ref (baseHz ref 69) = 39370533 := by decide +kernel
/-- 42_envelope.md R184: the table's columns `D normal` and `D fast`, from index 99 down to 0. -/
theorem test_rampTicks_normal :
    (List.range 100).map (fun i => rampTicks ref false (99 - i)) =
      [3, 3, 4, 4, 5, 5, 6, 7, 8, 8, 10, 11, 12, 13, 15, 17, 19, 21, 24, 27, 30, 34, 38, 43, 48, 54, 60, 68, 76, 86, 96, 108,
        121, 136, 152, 171, 192, 216, 242, 272, 305, 342, 384, 431, 484, 543, 610, 684, 768, 862] ++
      [968, 1086, 1219, 1368, 1536, 1724, 1935, 2172, 2438, 2737, 3072, 3448, 3870, 4344, 4876, 5474, 6144, 6896, 7741, 8689,
        9753, 10947, 12288, 13793, 15482, 17378, 19506, 21895, 24576, 27586, 30964, 34756, 39012, 43789, 49152, 55171, 61928,
        69511, 78024, 87579, 98304, 110343, 123855, 139023, 156048, 175158, 196608, 220685, 247711, 278046] := by
  decide +kernel
theorem test_rampTicks_fast :
    (List.range 50).map (fun i => rampTicks ref true (99 - i)) =
      [2, 2, 2, 2, 2, 3, 3, 3, 4, 4, 5, 5, 6, 7, 8, 8, 10, 11, 12, 13, 15, 17, 19, 21, 24, 27, 30, 34, 38, 43, 48, 54, 60, 68,
        76, 86, 96, 108, 121, 136, 152, 171, 192, 216, 242, 272, 305, 342, 384, 431] := by decide +kernel
/-- 42_envelope.md R189: values 1/3, 2/3 and 1. -/
theorem test_env_ramp :
    (fun e : Env Exact => [(envAdvance ref [] .dca .one e).val, ((envAdvance ref [] .dca .one)^[2] e).val,
      ((envAdvance ref [] .dca .one)^[3] e).val]) (envNoteOn ref [] .dca .one (Env.reset ref)) = [.rat (1 / 3), .rat (2 / 3), .rat 1] := by
  decide +kernel
/-- 42_envelope.md R190: the reset bank sustains DCA1 at stage 0. -/
theorem test_env_holds : ((envAdvance ref [] .dca .one)^[3] (envNoteOn ref [] .dca .one (Env.reset ref))).hold = true := by
  decide +kernel
/-- 42_envelope.md R194. -/
theorem test_rateInv : (ref.rateInv (.rat 256), ref.rateInv (.rat 10), ref.rateInv (.rat (1 / 10))) = (45, 73, 99) := by
  decide +kernel
/-- 42_envelope.md R195. -/
theorem test_adsr :
    (adsr ref (.rat 10) (.rat 256) (.rat (1 / 2)) (.rat (1 / 2))).stages =
      [0x80005E62, 0x40003A2F, 0x40008000, 0x00008000, 0x00008000, 0x00008000, 0x00008000, 0x00008000] := by
  decide +kernel
/-- 45_protocol.md R306. -/
theorem test_legal :
    (legal ref.pool .sysCfg 8 0, legal ref.pool (.oscCfg .one) 0 0x3F, legal ref.pool (.envSustain .dca .one) 0 9, legal ref.pool .arpTempo 0x780 0xFFFF) =
      (1, 0x36, 0, 4800) := by decide
/-- 10_state.md R43: OVS = 0 at reset and OVS = 3. -/
theorem test_oversampling :
    (oversamplingFactor ref [], oversamplingFactor ref (bankWith [(.sysCfg, 0x308)])) = (1, 8) := by decide
/-- 43_voice.md R236. -/
theorem test_status :
    (voiceStatus ref [] (sounding 60 0), voiceStatus ref [] (releasing 60 0), voiceStatus ref [] (Voice.reset ref)) =
      (0x013C, 0x033C, 0) := by decide
/-- 41_oscillator.md R143 and R155: the quarters of the sine, and the middle of a full saw's jump. -/
theorem test_sine_quarters :
    [0, 1 / 4, 1 / 2, 3 / 4].map (fun x => sineOf ref (.rat x)) = [.rat 0, .rat 1, .rat 0, .rat (-1)] := by decide +kernel
theorem test_blep_saw : exactAdd (sineOf ref (.rat (1 / 4))) (blep ref .saw (.rat 0) (.rat (1 / 256)) (.rat 1)) = .rat 0 := by
  decide +kernel
/-- 46_arpeggiator.md R348. -/
theorem test_buffer_up_two_octaves :
    noteBuffer ref (bankWith [(.arpCtl, 0x90)]) [67, 60, 64] = [60, 64, 67, 72, 76, 79] := by decide
theorem test_buffer_as_played : noteBuffer ref (bankWith [(.arpCtl, 0x88)]) [67, 60, 64] = [67, 60, 64] := by decide
/-- 46_arpeggiator.md R347: half gate at 6000 samples. -/
theorem test_arp_gate_closes : (arpTick ref { arpRunning.toEngine with arpAcc := .rat 3000 }).arpGateOpen = false := by
  decide +kernel
theorem test_arp_step_end :
    (fun t : RefEngine => (t.arpAcc, t.arpStep, t.arpNote, t.arpIdx))
      (arpTick ref { arpRunning.toEngine with arpAcc := .rat 6000 }) = (.rat 1, 1, 64, 2) := by decide +kernel
/-- 30_encoding.md R118, R119: a note line and a stage line of a stimulus source. -/
theorem test_assemble :
    (assembleText ref ["NoteOn 60, 1.0 ; a comment".toList, "stage DCA1, 0, r99, 0x8000".toList]).toOption =
      some [0x100000008000003C, 0x8000004080008000] := by decide +kernel

/-! ## Witnesses for the hypotheses of the statements -/

theorem test_witness_decodeEncodeAgree :
    Instr.nop.isRecord = false ∧ (Instr.dcwEnd 0 15).isRecord = true := by decide

theorem test_witness_ignoredBits :
    (0x100000008000003C#64 ≠ 0x1ABCDEF08000FFBC#64) ∧
    0x100000008000003C#64 &&& namedBits 0x100000008000003C = 0x1ABCDEF08000FFBC#64 &&& namedBits 0x100000008000003C ∧
    (0x0000000003D4#48 ≠ 0xFFFFFFFFFFD4#48) ∧
    0x0000000003D4#48 &&& namedRecordBits 0x0000000003D4 = 0xFFFFFFFFFFD4#48 &&& namedRecordBits 0x0000000003D4 := by
  decide

theorem test_witness_stepRuns :
    (State.reset.withFetchWord 64 0x3000000000000000).stimulus = [.op 0x3000000000000000] ∧
    (State.reset.withFetchWord 48 0x1F).stimulus = [.cmd 0x1F] ∧
    State.reset.stimulus = [] ∧
    (decodeBytes [0, 0, 0, 0, 0, 0, 0, 0x30, 7]).toOption = some (.allNotesOff, [7]) := by decide

theorem test_witness_everyOperationHasAStep :
    ({ State.reset with cmdq := List.replicate 64 0 }).cmdq.length = 64 ∧
    ({ State.reset with pendingValid := true }).pendingValid = true := by decide

theorem test_witness_nops :
    ((0x7FFFFFFFFFFFFFFF#64).extractLsb' 60 4).toNat ∈ [0x0, 0x7, 0xC, 0xD, 0xE] ∧
    ((0x0FFFFFFFFFFFFFFF#64).extractLsb' 60 4).toNat ∈ [0x0, 0x7, 0xC, 0xD, 0xE] ∧
    ((0xEFFFFFFFFFFFFFFF#64).extractLsb' 60 4).toNat ∈ [0x0, 0x7, 0xC, 0xD, 0xE] ∧
    9 ≤ (Rec.type 0x000000000019).toNat ∧ 9 ≤ (Rec.type 0x00000000001F).toNat := by decide

theorem test_witness_onlyTick : (∀ c, Instr.allNotesOff ≠ .tick c) ∧ exec .nop State.reset = .next State.reset :=
  ⟨fun _ h => Instr.noConfusion h, rfl⟩

theorem test_witness_setters :
    ((0x4000000000000000#64).extractLsb' 60 4).toNat = 4 ∧ ((0x5000000000000000#64).extractLsb' 60 4).toNat = 5 ∧
    ((0x6000000000000000#64).extractLsb' 60 4).toNat = 6 ∧ ((0xB000000000000000#64).extractLsb' 60 4).toNat = 11 ∧
    0x8000 ≤ (0x8000#16).toNat ∧ 0x8000 ≤ (0xFFFF#16).toNat ∧
    (0x4001 ≤ (0x4001#16).toNat ∧ (0x7FFF#16).toNat ≤ 0x7FFF) ∧
    (0x8000 ≤ (0x8000#16).toNat ∧ (0xBFFF#16).toNat ≤ 0xBFFF) := by decide

/-- The last slot, above a voice limit of 1, retriggered. -/
theorem test_witness_noteOnRetriggers :
    arpOn ref (bankWith [(.sysCfg, 1)]) = false ∧ fullPool.voices[7]? = some (sounding 67 5) ∧
    voiceState ref (bankWith [(.sysCfg, 1)]) (sounding 67 5) ≠ .free ∧ (sounding 67 5).note = 67 ∧
    (∀ (u : Nat) (y : RefVoice), u < 7 → fullPool.voices[u]? = some y →
      voiceState ref (bankWith [(.sysCfg, 1)]) y = .free ∨ y.note ≠ 67) :=
  ⟨by decide, by decide +kernel, by decide, by decide, forall_take (by decide +kernel)⟩

/-- Slots 0 to 6 sounding, slot 7 Free. -/
theorem test_witness_noteOnTakesLowestFree :
    arpOn ref [] = false ∧
    (∀ y ∈ fullPool.voices.set 7 (Voice.reset ref), voiceState ref [] y = .free ∨ y.note ≠ 100) ∧ 7 < voiceLimit ref [] ∧
    (fullPool.voices.set 7 (Voice.reset ref))[7]? = some (Voice.reset ref) ∧ voiceState ref [] (Voice.reset ref) = .free ∧
    (∀ (u : Nat) (y : RefVoice), u < 7 → (fullPool.voices.set 7 (Voice.reset ref))[u]? = some y → voiceState ref [] y ≠ .free) :=
  ⟨by decide, by decide +kernel, by decide, by decide +kernel, by decide, forall_take (by decide +kernel)⟩

theorem test_witness_noteOnStealsOldest :
    arpOn ref [] = false ∧ roundRobinSteal ref [] = false ∧
    (∀ y ∈ fullPool.voices, voiceState ref [] y = .free ∨ y.note ≠ 100) ∧
    (∀ (u : Nat) (y : RefVoice), u < voiceLimit ref [] → fullPool.voices[u]? = some y → voiceState ref [] y ≠ .free) ∧
    3 < voiceLimit ref [] ∧ fullPool.voices[3]? = some (sounding 63 2) ∧
    (∀ (u : Nat) (y : RefVoice), u < voiceLimit ref [] → fullPool.voices[u]? = some y →
      (sounding 63 2).stamp.toNat < y.stamp.toNat ∨ ((sounding 63 2).stamp = y.stamp ∧ 3 ≤ u)) := by
  refine ⟨by decide, by decide, by decide +kernel, forall_take (by decide +kernel), by decide, by decide +kernel, ?_⟩
  intro u y hu hy
  by_cases h : 3 ≤ u
  · have hall := forall_take (vs := fullPool.voices) (v := voiceLimit ref [])
      (P := fun y => (sounding 63 2).stamp.toNat ≤ y.stamp.toNat) (by decide +kernel) u y hu hy
    rcases Nat.lt_or_eq_of_le hall with hlt | heq
    · exact .inl hlt
    · exact .inr ⟨BitVec.eq_of_toNat_eq heq, h⟩
  · exact .inl (forall_take (vs := fullPool.voices) (v := 3)
      (P := fun y => (sounding 63 2).stamp.toNat < y.stamp.toNat) (by decide +kernel) u y (by omega) hy)

/-- The full pool with slot 5 Releasing, and with none Releasing; STEAL = 1, RR_CURSOR = 0 and RR_CURSOR = 7. -/
theorem test_witness_noteOnStealsRoundRobin :
    arpOn ref (bankWith [(.sysCfg, 0x808)]) = false ∧ roundRobinSteal ref (bankWith [(.sysCfg, 0x808)]) = true ∧
    (∀ y ∈ fullPool.voices, voiceState ref (bankWith [(.sysCfg, 0x808)]) y = .free ∨ y.note ≠ 100) ∧
    (∀ (u : Nat) (y : RefVoice), u < voiceLimit ref (bankWith [(.sysCfg, 0x808)]) → fullPool.voices[u]? = some y →
      voiceState ref (bankWith [(.sysCfg, 0x808)]) y ≠ .free) ∧
    1 < voiceLimit ref (bankWith [(.sysCfg, 0x808)]) ∧ fullPool.voices[1]? = some (sounding 61 8) ∧
    (∀ (u : Nat) (y : RefVoice), u < voiceLimit ref (bankWith [(.sysCfg, 0x808)]) → fullPool.voices[u]? = some y →
      voiceState ref (bankWith [(.sysCfg, 0x808)]) y ≠ .releasing) ∧
    1 = (0 + 1) % voiceLimit ref (bankWith [(.sysCfg, 0x808)]) ∧ 0 = (7 + 1) % voiceLimit ref (bankWith [(.sysCfg, 0x808)]) :=
  ⟨by decide, by decide, by decide +kernel, forall_take (by decide +kernel), by decide, by decide +kernel,
    forall_take (by decide +kernel), by decide, by decide⟩

theorem test_witness_noteOnStealsReleasing :
    (∀ y ∈ fullPool.voices.set 5 (releasing 65 3),
      voiceState ref (bankWith [(.sysCfg, 0x808)]) y = .free ∨ y.note ≠ 100) ∧
    (∀ (u : Nat) (y : RefVoice), u < voiceLimit ref (bankWith [(.sysCfg, 0x808)]) →
      (fullPool.voices.set 5 (releasing 65 3))[u]? = some y → voiceState ref (bankWith [(.sysCfg, 0x808)]) y ≠ .free) ∧
    5 < voiceLimit ref (bankWith [(.sysCfg, 0x808)]) ∧
    (fullPool.voices.set 5 (releasing 65 3))[5]? = some (releasing 65 3) ∧
    voiceState ref (bankWith [(.sysCfg, 0x808)]) (releasing 65 3) = .releasing ∧
    (∀ (u : Nat) (y : RefVoice), u < 5 → (fullPool.voices.set 5 (releasing 65 3))[u]? = some y →
      voiceState ref (bankWith [(.sysCfg, 0x808)]) y ≠ .releasing) :=
  ⟨by decide +kernel, forall_take (by decide +kernel), by decide, by decide +kernel, by decide,
    forall_take (by decide +kernel)⟩

theorem test_witness_voiceNoteOff :
    (voiceEnv (sounding 60 0) .dcw .one).active = false ∧ (voiceEnv (sounding 60 0) .dca .one).active = true ∧
    voiceState ref [] (Voice.reset ref) = .free ∧ voiceState ref [] (sounding 60 0) ≠ .free := by decide

theorem test_witness_noteOff :
    arpOn ref [] = false ∧ fullPool.voices[7]? = some (sounding 67 5) ∧ voiceState ref [] (sounding 67 5) = .active ∧
    (sounding 67 5).note = 67 ∧
    (∀ (u : Nat) (y : RefVoice), u < 7 → fullPool.voices[u]? = some y → voiceState ref [] y = .active → y.note ≠ 67) ∧
    (∀ y ∈ fullPool.voices, voiceState ref [] y = .active → y.note ≠ 100) :=
  ⟨by decide, by decide +kernel, by decide, by decide, forall_take (by decide +kernel), by decide +kernel⟩

theorem test_witness_allNotesOff :
    fullPool.voices[0]? = some (sounding 60 9) ∧ voiceState ref [] (sounding 60 9) = .active ∧
    (withVoices [releasing 60 0]).voices[0]? = some (releasing 60 0) ∧ voiceState ref [] (releasing 60 0) ≠ .active := by
  decide +kernel

theorem test_witness_oneVoicePerNote : OneVoicePerNote ref State.reset.toEngine := by
  intro i j x y hi _ hx
  have hmem := List.mem_of_getElem? hi
  have hall : ∀ v ∈ State.reset.voices, voiceState ref State.reset.active v = .free := by decide +kernel
  exact absurd (hall x hmem) hx

/-- An active unit at the end of a three-tick ramp. -/
def rampEnd (stage : Fin 8) (rel : Bool) : Env Exact :=
  { Env.reset ref with stage := stage, active := true, rel := rel, tgt := .rat 1, dur := 3, k := 2 }

/-- The reset bank sustains DCA1 at stage 0 and ends it at stage 1; a released unit at stage 0 goes on. -/
theorem test_witness_envAdvance :
    (Env.reset ref).active = false ∧ ({ rampEnd 0 false with hold := true }).hold = true ∧
    ((rampEnd 0 false).active = true ∧ (rampEnd 0 false).hold = false ∧ (rampEnd 0 false).dur ≤ (rampEnd 0 false).k + 1 ∧
      sustainPoint ref [] .dca .one = some (rampEnd 0 false).stage ∧ (rampEnd 0 false).rel = false) ∧
    ({ rampEnd 0 false with k := 1 }).k + 1 < ({ rampEnd 0 false with k := 1 }).dur ∧
    (sustainPoint ref [] .dca .one ≠ some (rampEnd 1 false).stage ∧ endPoint ref [] .dca .one ≤ (rampEnd 1 false).stage) ∧
    ((rampEnd 0 true).rel = true ∧ (rampEnd 0 true).stage < endPoint ref [] .dca .one) := by decide +kernel

theorem test_witness_envReaches : 3 = (envNoteOn ref [] .dca .one (Env.reset ref)).dur := by decide +kernel

theorem test_witness_release :
    (rampEnd 7 false).active = true ∧ 3 = (envNoteOff ref [] .dca .one (rampEnd 7 false)).dur := by decide +kernel

theorem test_witness_expTwo : (0 : ℚ) ≤ (⟨0, 1 / 3⟩ : Exp2).coef ∧ (0 : ℚ) ≤ (⟨440, -7 / 12⟩ : Exp2).coef := by
  decide +kernel

theorem test_witness_rampTicks : 0 ≤ 99 ∧ 49 ≤ 99 ∧ ¬50 ≤ 49 ∧ 50 ≤ 99 ∧ 99 ≤ 99 := by decide

theorem test_witness_increment :
    LatchesOk { State.reset.toEngine with lfoIn := .rat (-1), pitchBend := .rat (-128) } ∧ VoiceOk (sounding 127 0) ∧
    VoiceOk { sounding 0 0 with pitch1 := rampEnd 0 true } := by decide +kernel

theorem test_witness_rateInv : (0 : ℝ) < 1 / 2 ∧ (-1 : ℝ) ≤ 0 ∧ (0 : ℝ) ≤ 0 := by norm_num

theorem test_witness_adsr :
    0 ≤ 99 ∧ 99 ≤ 99 ∧ 0x8000#16 ++ rateCode 99 ∈ (adsr ref (.rat 0) (.rat 0) (.rat 0) (.rat 0)).stages := by decide +kernel

theorem test_witness_phaseAccumulator :
    2 ^ 33 ≤ (0x200000000#64).toNat ∧ (acc 0xFFFFFFFF 0x200000000).2 = true ∧ accWraps 0 0x200000000 = 2 := by decide

theorem test_witness_warps : (1 / 4 : ℝ) < 1 / 2 ∧ (1 / 2 : ℝ) ≤ 1 / 2 ∧ (0 : ℝ) < 1 / 4 ∧ (1 / 4 : ℝ) ≤ 1 / 4 := by
  norm_num

/-- The three pieces of the step residual at an increment of 1/4, the bound of the correction, and both halves of a dual cycle. -/
theorem test_witness_oscillatorSample :
    ((1 / 8 : ℝ) < 1 / 4) ∧ ((1 / 4 : ℝ) ≤ 7 / 8 ∧ (1 : ℝ) - 1 / 4 < 7 / 8) ∧
    ((1 / 4 : ℝ) ≤ 1 / 4 ∧ (1 / 4 : ℝ) ≤ 1 - 1 / 4) ∧ ((1 / 2 : ℝ) ≤ 1 / 2) ∧ ((1 / 4 : ℝ) < 1 / 2) ∧
    dualWave realRef [] .one = false ∧ dualWave realRef (bankWith [(.oscCfg .two, 0x48)]) .two = true ∧
    (0x7FFFFFFF#32).toNat < 2 ^ 31 ∧ ¬(0x80000000#32).toNat < 2 ^ 31 ∧
    waveA realRef (bankWith [(.oscCfg .two, 0x48)]) .two = .saw ∧
    waveB realRef (bankWith [(.oscCfg .two, 0x48)]) .two = .square := by
  refine ⟨by norm_num, by norm_num, by norm_num, by norm_num, by norm_num, ?_⟩
  decide +kernel

theorem test_witness_voiceRender :
    voiceState ref State.reset.active (Voice.reset ref) = .free ∧ voiceState ref State.reset.active (sounding 60 0) ≠ .free ∧
    (sounding 60 0).ctl = 0 := by decide

/-- SYNC on, oscillator 1 about to wrap and not. -/
theorem test_witness_hardSync :
    syncOn ref (bankWith [(.mixCfg, 1)]) = true ∧ syncOn ref [] = false ∧
    2 ^ 32 ≤ ({ sounding 69 0 with osc1 := ⟨0xFFFFFFF0, 0⟩ }).osc1.ph.toNat +
      (voiceRender ref { State.reset.toEngine with active := bankWith [(.mixCfg, 1)] }
        { sounding 69 0 with osc1 := ⟨0xFFFFFFF0, 0⟩ }).2.osc1.inc.toNat ∧
    (sounding 69 0).osc1.ph.toNat +
      (voiceRender ref { State.reset.toEngine with active := bankWith [(.mixCfg, 1)] } (sounding 69 0)).2.osc1.inc.toNat < 2 ^ 32 := by
  decide +kernel

/-- Every mixer setting, without and with hard sync; an oscillator 1 that wraps and one that does not are in
`test_witness_hardSync`. -/
theorem test_witness_voiceOutput :
    (voiceState ref (bankWith [(.mixCfg, 5)]) (sounding 69 0) ≠ .free) ∧
    ([0, 4, 6, 1, 5, 7].map fun w : ParamWord => (syncOn ref (bankWith [(.mixCfg, w)]),
      line2On ref (bankWith [(.mixCfg, w)]), ringOn ref (bankWith [(.mixCfg, w)]))) =
      [(false, false, false), (false, true, false), (false, true, true), (true, false, false), (true, true, false),
        (true, true, true)] := by decide +kernel

theorem test_witness_statusWord : (voiceStatus ref [] (releasing 60 0)).getLsbD 9 = true := by decide

theorem test_witness_outputIsBounded : ∀ v ∈ State.reset.voices, VoiceOk v := by decide +kernel

theorem test_witness_arpKeyDown :
    arpOn ref arpBank = true ∧ (60 ∈ arpRunning.held) ∧ ((List.replicate 16 (1 : Note)).length = 16) ∧
    ((70 : Note) ∉ arpRunning.held ∧ arpRunning.held.length ≠ 16 ∧ arpRunning.held ≠ []) ∧
    State.reset.held = [] ∧ arpPattern ref arpBank = .up := by decide

theorem test_witness_arpKeyUp :
    (70 ∉ arpRunning.held) ∧ (60 ∈ arpRunning.held ∧ ∃ m ∈ arpRunning.held, m ≠ 60) ∧
    ((60 : Note) ∈ [60] ∧ ∀ m ∈ [(60 : Note)], m = 60) := by decide

theorem test_witness_cyclic :
    noteBuffer ref arpRunning.active arpRunning.held = [60, 64] ∧ ({ arpRunning with arpIdx := 0 }).arpIdx = 0 ∧
    arpPattern ref arpRunning.active = .up := by decide

/-- The arpeggiator running with PATTERN = UpDown (ARP_CTL 0x85). -/
def arpUpDown (idx : Nat) (dir : Dir) : RefEngine :=
  { arpRunning.toEngine with active := bankWith [(.arpCtl, 0x85)], arpIdx := idx, arpDir := dir }

/-- 46_arpeggiator.md R351: three notes, and the shortest buffers; the clauses' conditions at their boundaries. -/
theorem test_witness_pingPong :
    arpPattern ref (arpUpDown 0 .plus).active = .upDown ∧
    (min 1 (3 - 1) + 1 < 3 ∧ ((selectStep ref (arpUpDown 1 .plus) 3).1, (selectStep ref (arpUpDown 1 .plus) 3).2.arpIdx) = (1, 2)) ∧
    (min 9 (3 - 1) + 1 = 3 ∧ (selectStep ref (arpUpDown 9 .plus) 3).2 = arpUpDown 1 .minus) ∧
    (0 < min 1 (2 - 1) ∧ (selectStep ref (arpUpDown 1 .minus) 2).2 = arpUpDown 0 .minus) ∧
    (selectStep ref (arpUpDown 0 .minus) 2).2 = arpUpDown 1 .plus ∧
    (selectStep ref (arpUpDown 4 .minus) 1).2 = arpUpDown 1 .plus ∧
    arpPattern ref (bankWith [(.arpCtl, 0x87)]) = .random := by decide +kernel

/-- The arpeggiator running, its accumulator at `acc` and ARP_GATE at `gate`. -/
def arpAt (acc : ℚ) (gate : ParamWord) : RefEngine :=
  { arpRunning.toEngine with arpAcc := .rat acc, active := bankWrite ref.pool arpBank .arpGate gate }

/-- Before the gate, at the gate, at the step's end with half a gate and with none, and a gate of the whole step. -/
theorem test_witness_arpTick :
    State.reset.arpRun = false ∧ (arpAt 0 0x4000).arpRun = true ∧ (arpAt 0 0x4000).arpGateOpen = true ∧
    (stepOver ref (arpAt 2999 0x4000) = false ∧ gateOver ref (arpAt 2999 0x4000) = false) ∧
    (stepOver ref (arpAt 3000 0x4000) = false ∧ gateOver ref (arpAt 3000 0x4000) = true) ∧
    arpGateFraction ref (arpAt 0 0x4000).active < 1 ∧ arpGateFraction ref (arpAt 0 0x8000).active = 1 ∧
    stepOver ref (arpAt 5999 0x8000) = false ∧ stepOver ref (arpAt 6000 0x4000) = true ∧
    stepOver ref (arpAt 6000 0) = true ∧ (arpAt 6000 0).held ≠ [] ∧
    (noteBuffer ref (arpAt 6000 0).active (arpAt 6000 0).held)[
      (selectStep ref { arpAt 6000 0 with draws := 1 } 2).1]? = some 64 ∧
    (∃ fired : RefEngine, fired =
      { allocNoteOn ref (allocNoteOff ref (arpAt 6000 0x4000) 60) 64 ref.arpFixedVel with
        arpAcc := ref.num.sub (arpAt 6000 0x4000).arpAcc (arpAt 6000 0x4000).arpLen, arpStep := 1
        arpLen := stepLength ref (arpAt 6000 0x4000) 1, arpIdx := 2, draws := 1, arpNote := 64, arpGateOpen := true } ∧
      gateOver ref fired = false) ∧
    (∃ fired : RefEngine, fired =
      { allocNoteOn ref (allocNoteOff ref (arpAt 6000 0) 60) 64 ref.arpFixedVel with
        arpAcc := ref.num.sub (arpAt 6000 0).arpAcc (arpAt 6000 0).arpLen, arpStep := 1
        arpLen := stepLength ref (arpAt 6000 0) 1, arpIdx := 2, draws := 1, arpNote := 64, arpGateOpen := true } ∧
      gateOver ref fired = true) := by
  refine ⟨?_, ?_, ?_, ?_, ?_, ?_, ?_, ?_, ?_, ?_, ?_, ?_, ⟨_, rfl, ?_⟩, ⟨_, rfl, ?_⟩⟩ <;> decide +kernel

/-- The lengths of the running arpeggiator. -/
theorem arpAt_lengths (acc : ℚ) (gate : ParamWord) (h : 0 ≤ acc) : ArpLengthsOk (arpAt acc gate) := by
  have hlen : (arpAt acc gate).arpLen = .rat 6000 := (by decide +kernel : arpRunning.arpLen = .rat 6000)
  have hbase : (arpAt acc gate).arpBase = .rat 6000 := (by decide +kernel : arpRunning.arpBase = .rat 6000)
  have hacc : (arpAt acc gate).arpAcc = .rat acc := rfl
  rw [ArpLengthsOk, hlen, hbase, hacc, toReal_rat, toReal_rat]
  exact ⟨rfl, by exact_mod_cast h, rfl, by norm_num, by decide +kernel⟩

/-- The running arpeggiator over ℝ, half a gate of 6000 samples to go. -/
theorem test_witness_gate :
    ∃ (s : Engine ℝ Config.PostState) (gate : ℝ) (n : Nat), gate = arpGateFraction realRef s.active ∧ s.arpRun = true ∧
      s.arpGateOpen = true ∧ gate < 1 ∧ s.arpAcc ≤ gate * s.arpLen ∧ gate * s.arpLen + 1 ≤ s.arpLen ∧ n = 3000 ∧
      n = ⌈gate * s.arpLen - s.arpAcc⌉.toNat := by
  have hgate : arpGateFraction realRef (arpAt 0 0x4000).active = 1 / 2 := by decide +kernel
  have hlen : (realEngine (arpAt 0 0x4000)).arpLen = 6000 := by
    have h : (arpAt 0 0x4000).arpLen = .rat 6000 := by decide +kernel
    exact (congrArg Exact.toReal h).trans (by norm_num)
  have hacc : (realEngine (arpAt 0 0x4000)).arpAcc = 0 := by simp [realEngine, mapEngine, arpAt]
  refine ⟨realEngine (arpAt 0 0x4000), 1 / 2, 3000, ?_, rfl, rfl, by norm_num, ?_, ?_, rfl, ?_⟩
  · exact (by rw [hgate]; norm_num : (1 / 2 : ℝ) = (arpGateFraction realRef (arpAt 0 0x4000).active : ℝ))
  · rw [hlen, hacc]; norm_num
  · rw [hlen]; norm_num
  · rw [hlen, hacc, show (1 / 2 * 6000 - 0 : ℝ) = ((3000 : Int) : ℝ) by norm_num, Int.ceil_intCast]; rfl

theorem test_witness_stepLength :
    (-1 : ℝ) ≤ 1 ∧ arpJitter realRef (realEngine (arpAt 0 0)).active = 0 ∧ 0 ≤ (realEngine (arpAt 0 0)).arpBase := by
  have hcode : lo16 (bankRead realRef.pool (realEngine (arpAt 0 0)).active .arpJitter) = 0 := by
    decide +kernel
  have hbase : (arpAt 0 0).arpBase = .rat 6000 := by decide +kernel
  refine ⟨by norm_num, ?_, ?_⟩
  · change ((uq15 _ : ℚ) : ℝ) * _ = 0
    rw [hcode]
    norm_num [uq15]
  · exact (by rw [hbase]; norm_num : (0 : ℝ) ≤ (arpAt 0 0).arpBase.toReal)

/-- Every pattern, one octave and four, and notes at both ends of the range. -/
theorem test_witness_noteBuffer :
    octRange ref arpBank = 1 ∧ arpPattern ref arpBank = .up ∧ arpPattern ref (bankWith [(.arpCtl, 0xB3)]) = .down ∧
    octRange ref (bankWith [(.arpCtl, 0xB3)]) = 4 ∧
    noteBuffer ref (bankWith [(.arpCtl, 0xB3)]) [103, 0] = [36, 127, 24, 115, 12, 103, 0] ∧ arpPattern ref (bankWith [(.arpCtl, 0x91)]) = .up ∧
    octRange ref (bankWith [(.arpCtl, 0x91)]) = 2 ∧ arpPattern ref (bankWith [(.arpCtl, 0x89)]) = .asPlayed ∧
    octRange ref (bankWith [(.arpCtl, 0x89)]) = 1 := by decide

/-- Unmapped addresses at the edges of every gap, and the banks in canonical form. -/
theorem test_witness_paramWrite :
    (∀ a ∈ [0x00B, 0x01F, 0x0AB, 0x0BF], a < 0x0C0 ∧ 0x0B ≤ a % 32) ∧ Bank.wf ref.pool State.reset.shadow = true ∧
    (∀ a ∈ [0x00B, 0x01F, 0x0AB, 0x0BF, 0x0C0, 0x0FF, 0x10C, 0x10F, 0x111, 0x11F, 0x125, 0x17F, 0x200, 0x3FF],
      regAt a = none) ∧
    (∀ a ∈ [0x000, 0x00A, 0x020, 0x0AA, 0x100, 0x10B, 0x110, 0x120, 0x124, 0x180, 0x1FF], (regAt a).isSome = true) := by
  decide

theorem test_witness_legal :
    legalWord ref.pool (.envSustain .dca .one) 15 = true ∧ legalWord ref.pool (.envSustain .dca .one) 8 = false ∧
    legalWord ref.pool (.envEnd .dca .one) 7 = true ∧ legalWord ref.pool (.envEnd .dca .one) 8 = false ∧
    legalWord ref.pool .sysCfg 0 = false ∧ legalWord ref.pool .sysCfg 9 = false := by decide

theorem test_witness_snapPublish :
    exec .snapPublish State.reset = .next { State.reset with pendingValid := true } ∧
    ∃ u, exec (.paramWrite 0x110 4) { State.reset with pendingValid := true } = .next u := ⟨rfl, _, rfl⟩

theorem test_witness_cmdPush :
    ({ State.reset with cmdq := List.replicate 63 0 }).cmdq.length < 64 ∧
    64 ≤ ({ State.reset with cmdq := List.replicate 64 0 }).cmdq.length ∧
    ((0xA000000000000000#64).extractLsb' 60 4).toNat = 10 := by decide

theorem test_witness_install :
    State.reset.pendingValid = false ∧ ({ State.reset with pendingValid := true }).pendingValid = true ∧
    arpOn ref State.reset.active = false ∧ arpOn ref arpRunning.active = true ∧ arpOn ref arpRunning.pending = false ∧
    arpOn ref ({ arpRunning with pending := arpBank }).pending = true := by decide

theorem test_witness_drain :
    State.reset.cmdq = [] ∧ ({ State.reset with cmdq := [0x11, 0x22] }).cmdq = 0x11 :: [0x22] := by decide

theorem test_witness_stageRecords :
    Bank.wf ref.pool State.reset.active = true ∧ (1#2).toNat = lineIndex .one + 1 ∧ (2#2).toNat = lineIndex .two + 1 ∧
    (7#4).toNat = (7 : Fin 8).val ∧ (0#2).toNat = 0 ∧ (3#2).toNat = 3 ∧ 8 ≤ (8#4).toNat := by decide

theorem test_witness_pointRecords :
    Bank.wf ref.pool State.reset.active = true ∧ (1#2).toNat = lineIndex .one + 1 ∧ (7#4).toNat ≤ 7 ∧ (15#4).toNat = 15 ∧
    (8 ≤ (8#4).toNat ∧ (14#4).toNat ≤ 14) ∧ 8 ≤ (8#4).toNat ∧ (0#2).toNat = 0 ∧ (3#2).toNat = 3 := by decide

/-- Records at the boundaries of INDEX, valid and ignored, of each type, and the lines. -/
theorem test_witness_apply :
    Bank.wf ref.pool (bankWith [(.envStage .dca .one 0, 0x40008000)]) = true ∧
    ([0x1D0, 0x1D1, 0x1D2].all fun r => decide ((Rec.type r).toNat ≤ 2 ∧ (Rec.index r).toNat = 7 ∧
      lineOfCode (Rec.line r) = some .one)) = true ∧
    ([0x3D3, 0x1D4, 0x3D5].all fun r => decide (3 ≤ (Rec.type r).toNat ∧ (Rec.type r).toNat ≤ 5 ∧
      ((Rec.index r).toNat ≤ 7 ∨ (Rec.index r).toNat = 15))) = true ∧
    ([0x1E6, 0x027, 0x1D8].all fun r => decide (6 ≤ (Rec.type r).toNat ∧ (Rec.type r).toNat ≤ 8 ∧
      (Rec.index r).toNat ≤ 7)) = true ∧
    ([0x210, 0x3D2].all fun r => decide ((Rec.type r).toNat ≤ 2 ∧ 8 ≤ (Rec.index r).toNat)) = true ∧
    ([0x213, 0x395].all fun r => decide (8 ≤ (Rec.index r).toNat ∧ (Rec.index r).toNat ≤ 14)) = true ∧
    ([0x1C0, 0x1F8, 0x1C3].all fun r => decide (lineOfCode (Rec.line r) = none)) = true ∧
    9 ≤ (Rec.type 0x1D9).toNat := by decide

theorem test_witness_tick :
    (0#32).toNat + (0xFFFFFFFF#32).toNat < 2 ^ 32 ∧ exec (.tick 0) State.reset = .next State.reset := ⟨by decide, rfl⟩

theorem test_witness_sampleStep :
    State.reset.time.toNat % 64 = 0 ∧ ({ State.reset with time := 63 }).time.toNat % 64 ≠ 0 ∧
    ({ State.reset with time := 63 }).arpRun = false ∧
    (∀ v ∈ State.reset.voices, voiceState ref State.reset.active v = .free) := by decide +kernel

theorem test_witness_boundary :
    ({ State.reset with pendingValid := true, cmdq := [0x11] }).pendingValid = true ∧
    State.reset.pendingValid = false := by decide

/-- 45_protocol.md R303, 46_arpeggiator.md R359, 47_sample_clock.md R392: a boundary that turns ARP_ON off stops the sequencer. -/
theorem test_boundary_disables :
    (fun t : RefEngine => (t.held, t.arpRun, t.arpGateOpen, t.voices.map fun v => v.rel))
      (blockBoundary ref { arpRunning.toEngine with pendingValid := true }) =
      ([], false, false, [true, false, false, false, false, false, false, false]) := by decide +kernel

/-- A tick that ends just at a boundary, and one of no samples on a boundary. -/
theorem test_witness_hostIsInvisible :
    IsHostOp .snapPublish ∧ ¬IsHostOp (.tick 63) ∧ (Instr.tick 63).isRecord = false ∧
    (∀ c, Instr.tick 63 = .tick c → c.toNat = 0 ∨ (({ State.reset with time := 1 }).time.toNat % 64 ≠ 0 ∧
      ({ State.reset with time := 1 }).time.toNat % 64 + c.toNat ≤ 64)) ∧
    engineView State.reset = engineView { State.reset with pendingValid := true, cmdq := [0x11] } := by
  refine ⟨.inr (.inl rfl), ?_, rfl, ?_, by decide +kernel⟩
  · rintro (⟨a, d, h⟩ | h | ⟨r, h⟩) <;> exact Instr.noConfusion h
  · intro c h
    injection h with h
    subst h
    decide

/-- A state that is not reset, in range, with a word to come. -/
def arpStepping : State := { State.reset with toEngine := arpAt 6000 0x4000, stimulus := [.op 0xF000000000000001] }

/-- It is in range, and steps: the premises of StepKeepsInv and RunsAsTheRealBlock. -/
theorem test_witness_stepKeepsInv :
    Inv arpStepping.toEngine ∧ ∃ t, step arpStepping = .next t ∧ t.arpStep = 1 ∧ t.events = [.noteOff 60, .noteOn 64 (.rat 1)] := by
  refine ⟨⟨by decide +kernel, by decide +kernel, by decide +kernel, by decide +kernel, by decide +kernel, by decide +kernel,
    arpAt_lengths 6000 0x4000 (by norm_num), ?_⟩, ?_⟩
  · have hl : (arpAt 6000 0x4000).outL = .rat 0 := by decide +kernel
    have hr : (arpAt 6000 0x4000).outR = .rat 0 := by decide +kernel
    simp only [arpStepping, OutputOk, hl, hr, toReal_rat]
    norm_num
  · refine ⟨{ arpStepping with stimulus := [] }.onEngine (sampleSteps ref (1#32).toNat), ?_, by decide +kernel,
      by decide +kernel⟩
    have h : step arpStepping = exec (decodeWord 0xF000000000000001) { arpStepping with stimulus := [] } := rfl
    rw [h, show decodeWord 0xF000000000000001 = .tick 1 by decide]
    rfl

/-- The words of a small bank as the engine decodes them: its fields at their bounds. -/
theorem test_witness_parameterFields :
    (∀ r : Reg, (fun r => (bankRead ref.pool arpBank r).toNat) r = (bankRead ref.pool arpBank r).toNat) ∧
    (bankRead ref.pool arpBank (.envSustain .dcw .one)).toNat % 16 = 15 ∧
    (bankRead ref.pool arpBank (.envSustain .dca .one)).toNat % 16 = (0 : Fin 8).val ∧
    (bankRead ref.pool arpBank (.envEnd .dca .one)).toNat % 16 = (1 : Fin 8).val ∧
    (bankRead ref.pool arpBank (.oscCfg .one)).toNat % 8 = 0 ∧
    (bankRead ref.pool arpBank (.detune .one)).toNat % 2 = 0 ∧
    (bankRead ref.pool (bankWith [(.detune .one, 1)]) (.detune .one)).toNat % 2 = 1 ∧
    (bankRead ref.pool arpBank .arpCtl).toNat / 2 % 8 = 0 := by
  refine ⟨fun _ => rfl, ?_⟩
  decide

end Sys2Proof.Tests
end

section
/-! SUPPORT. The step: what it takes and what it runs (00_scope.md R4, 20_memory.md R86). -/

namespace Sys2Proof.Machine

/-- With an item to come, a step is `exec` of what the item decodes to. -/
theorem step_cons {s : State} {e : Encoded} {rest : List Encoded} (h : s.stimulus = e :: rest) :
    step s = exec (decode e) { s with stimulus := rest } := by
  unfold step
  rw [h]

/-- With nothing to come, a step idles. -/
theorem step_nil {s : State} (h : s.stimulus = []) : step s = .next s := by
  unfold step
  rw [h]

/-- The bits of a 64-bit row are delivered as an operation word. -/
theorem tableItem_word (w : OpWord) : tableItem 64 w.toNat = .op w := by
  have hw : w.toNat % 2 ^ 64 = w.toNat := Nat.mod_eq_of_lt w.isLt
  simp only [tableItem, hw, isRecordWidth, BitVec.ofNat_toNat, BitVec.setWidth_eq]
  rfl

/-- The bits of a 48-bit row are delivered as a command record. -/
theorem tableItem_record (r : Rec) : tableItem 48 r.toNat = .cmd r := by
  have hr : r.toNat % 2 ^ 48 = r.toNat := Nat.mod_eq_of_lt r.isLt
  simp only [tableItem, hr, isRecordWidth, BitVec.ofNat_toNat, BitVec.setWidth_eq]
  rfl

/-- A step of a state with a row's bits placed in front runs those bits in the state itself. -/
theorem step_withFetchWord (s : State) (nbits w : Nat) :
    step (s.withFetchWord nbits w) = exec (decode (tableItem nbits w)) s :=
  step_cons (s := s.withFetchWord nbits w) rfl

/-- Bytes that decode to an instruction start with the eight bytes of a word that decodes to it. -/
theorem decodeBytes_ok {bytes tail : List Byte} {i : Instr} (h : decodeBytes bytes = .ok (i, tail)) :
    ∃ w : Nat, takeLittleEndian 8 bytes = .ok (w, tail) ∧ decodeWord (BitVec.ofNat 64 w) = i := by
  unfold decodeBytes at h
  split at h
  · next w rest hw =>
    cases h
    exact ⟨w, hw, rfl⟩
  · cases h

/-- Settles O4: a step is `exec` of the decoded item it takes. -/
theorem stepRunsDecodedInstruction : Obligations.StepRunsDecodedInstruction := by
  refine ⟨fun s e rest h => step_cons h, fun s h => step_nil h, fun s w => ?_, fun s r => ?_, ?_⟩
  · rw [step_withFetchWord, tableItem_word, decode]
  · rw [step_withFetchWord, tableItem_record, decode]
  · intro bytes tail i h
    obtain ⟨w, hw, rfl⟩ := decodeBytes_ok h
    exact ⟨w, hw, fun s rest hs => step_cons hs⟩

end Sys2Proof.Machine
end

section
/-! SUPPORT. Comparisons and floors of `coef * 2 ^ exp` are those of the real number (00_scope.md R9, R11). -/

namespace Sys2Proof.Machine

/-- The real number that the symbolic form denotes. -/
noncomputable def exp2Real (x : Exp2) : ℝ := (x.coef : ℝ) * (2 : ℝ) ^ (x.exp : ℝ)

/-- The coefficient left when the whole part of the exponent is carried into it. -/
def exp2Mantissa (x : Exp2) : ℚ := x.coef * twoPowInt ⌊x.exp⌋

theorem exp2Mantissa_nonneg {x : Exp2} (h : 0 ≤ x.coef) : 0 ≤ exp2Mantissa x :=
  mul_nonneg h (twoPowInt_pos _).le

theorem exp2Real_eq_mantissa (x : Exp2) :
    exp2Real x = (exp2Mantissa x : ℝ) * (2 : ℝ) ^ ((Int.fract x.exp : ℚ) : ℝ) := by
  have hexp : (x.exp : ℝ) = (⌊x.exp⌋ : ℝ) + ((Int.fract x.exp : ℚ) : ℝ) := by
    exact_mod_cast (Int.floor_add_fract x.exp).symm
  unfold exp2Real exp2Mantissa
  rw [hexp, Real.rpow_add (by norm_num)]
  push_cast
  rw [twoPowInt_eq, mul_assoc]

/-- The number lies between the mantissa times the two ends of the enclosure. -/
theorem exp2Real_bounds {x : Exp2} (h : 0 ≤ x.coef) :
    ((exp2Mantissa x * (encloseTwoPow (Int.fract x.exp)).1 / (2 ^ rootScale : Nat) : ℚ) : ℝ) ≤ exp2Real x ∧
      exp2Real x ≤ ((exp2Mantissa x * (encloseTwoPow (Int.fract x.exp)).2 / (2 ^ rootScale : Nat) : ℚ) : ℝ) := by
  obtain ⟨hlo, hhi⟩ := encloseTwoPow_bounds (Int.fract_nonneg x.exp) (Int.fract_lt_one x.exp)
  have hscale : (0 : ℝ) < 2 ^ rootScale := by positivity
  have hm : (0 : ℝ) ≤ (exp2Mantissa x : ℝ) := by exact_mod_cast exp2Mantissa_nonneg h
  rw [exp2Real_eq_mantissa]
  push_cast [-Rat.cast_fract]
  constructor
  · rw [div_le_iff₀ hscale, mul_assoc]
    exact mul_le_mul_of_nonneg_left hlo hm
  · rw [le_div_iff₀ hscale, mul_assoc]
    exact mul_le_mul_of_nonneg_left hhi hm

/-- The test by whole powers is the comparison of the reals: both sides are raised to the denominator of r. -/
theorem exactGe_iff {c r : ℚ} (hc : 0 ≤ c) (hr : 0 ≤ r) (q : ℚ) :
    exactGe c r q = true ↔ (q : ℝ) ≤ (c : ℝ) * (2 : ℝ) ^ (r : ℝ) := by
  have hc' : (0 : ℝ) ≤ c := by exact_mod_cast hc
  have hx : (0 : ℝ) ≤ (c : ℝ) * (2 : ℝ) ^ (r : ℝ) := by positivity
  have hpow : ((c : ℝ) * (2 : ℝ) ^ (r : ℝ)) ^ r.den = (c : ℝ) ^ r.den * 2 ^ r.num.toNat := by
    have hexp : (r : ℝ) * (r.den : ℝ) = (r.num.toNat : ℝ) := by
      have hnum : ((r.num.toNat : Int) : ℝ) = (r.num : ℝ) := by
        rw [Int.toNat_of_nonneg (Rat.num_nonneg.2 hr)]
      rw [← Int.cast_natCast r.num.toNat, hnum]
      exact_mod_cast Rat.mul_den_eq_num r
    rw [mul_pow, ← Real.rpow_natCast ((2 : ℝ) ^ (r : ℝ)), ← Real.rpow_mul (by norm_num), hexp, Real.rpow_natCast]
  simp only [exactGe, decide_eq_true_eq]
  rcases le_or_gt q 0 with hq | hq
  · have : (q : ℝ) ≤ 0 := by exact_mod_cast hq
    exact ⟨fun _ => this.trans hx, fun _ => .inl hq⟩
  · have hq' : (0 : ℝ) ≤ q := by exact_mod_cast hq.le
    rw [or_iff_right hq.not_ge, ← pow_le_pow_iff_left₀ hq' hx r.den_ne_zero, hpow]
    norm_cast

/-- The whole-power test on the mantissa compares the number itself. -/
theorem exactGe_mantissa_iff {x : Exp2} (h : 0 ≤ x.coef) (q : ℚ) :
    exactGe (exp2Mantissa x) (Int.fract x.exp) q = true ↔ (q : ℝ) ≤ exp2Real x := by
  rw [exactGe_iff (exp2Mantissa_nonneg h) (Int.fract_nonneg _), exp2Real_eq_mantissa]

/-- `exp2Ge` is the comparison of the reals: the enclosure where it decides, else the whole powers. -/
theorem exp2Ge_iff {x : Exp2} (h : 0 ≤ x.coef) (q : ℚ) : exp2Ge x q = true ↔ (q : ℝ) ≤ exp2Real x := by
  obtain ⟨hlo, hhi⟩ := exp2Real_bounds h
  have hscale : (0 : ℚ) < (2 ^ rootScale : Nat) := by positivity
  unfold exp2Ge
  simp only
  split
  · next hle =>
    have hq : (q : ℝ) ≤ ((exp2Mantissa x * (encloseTwoPow (Int.fract x.exp)).1 / (2 ^ rootScale : Nat) : ℚ) : ℝ) := by
      exact_mod_cast (le_div_iff₀ hscale).2 hle
    exact ⟨fun _ => hq.trans hlo, fun _ => rfl⟩
  · split
    · next hlt =>
      have hq : ((exp2Mantissa x * (encloseTwoPow (Int.fract x.exp)).2 / (2 ^ rootScale : Nat) : ℚ) : ℝ) < (q : ℝ) := by
        exact_mod_cast (div_lt_iff₀ hscale).2 hlt
      exact ⟨fun hfalse => absurd hfalse (by decide), fun hq' => absurd (hq'.trans hhi) hq.not_ge⟩
    · exact exactGe_mantissa_iff h q

/-- The search downwards from `top` finds the floor, where it lies within the reach. -/
theorem exactFloorFrom_eq {c r : ℚ} {X : ℝ} (hge : ∀ q : ℚ, exactGe c r q = true ↔ (q : ℝ) ≤ X) (n : Nat) :
    ∀ top : Int, ⌊X⌋ ≤ top → top - n ≤ ⌊X⌋ → exactFloorFrom c r top n = ⌊X⌋ := by
  induction n with
  | zero =>
    intro top htop hlow
    simp only [exactFloorFrom]
    omega
  | succ n ih =>
    intro top htop hlow
    have hiff : exactGe c r top = true ↔ top ≤ ⌊X⌋ := by
      rw [hge, Int.le_floor]
      norm_cast
    rw [exactFloorFrom]
    split
    · next hyes => exact le_antisymm (hiff.1 hyes) htop
    · next hno =>
      rw [hiff] at hno
      exact ih (top - 1) (by omega) (by push_cast at hlow; omega)

/-- `exp2Floor` is the floor of the real number. -/
theorem exp2Floor_eq {x : Exp2} (h : 0 ≤ x.coef) : exp2Floor x = ⌊exp2Real x⌋ := by
  obtain ⟨hlo, hhi⟩ := exp2Real_bounds h
  have hlow := Int.floor_le_floor hlo
  have hhigh := Int.floor_le_floor hhi
  rw [Rat.floor_cast] at hlow hhigh
  unfold exp2Floor
  simp only
  split
  · next heq =>
    change ⌊exp2Mantissa x * _ / _⌋ = ⌊exp2Mantissa x * _ / _⌋ at heq
    exact le_antisymm hlow (heq ▸ hhigh)
  · exact exactFloorFrom_eq (exactGe_mantissa_iff h) _ _ hhigh (by
      change ⌊exp2Mantissa x * _ / _⌋ - _ ≤ _
      have := hlow.trans hhigh
      rw [Int.toNat_of_nonneg (by exact sub_nonneg.2 this)]
      exact (sub_sub_cancel _ _).trans_le hlow)

/-- `exp2FloorPlus` is the floor of the sum: with q = n / d it is the floor of (n + d * x) / d. -/
theorem exp2FloorPlus_eq {x : Exp2} (h : 0 ≤ x.coef) (q : ℚ) : exp2FloorPlus q x = ⌊(q : ℝ) + exp2Real x⌋ := by
  have hden : (q.den : ℝ) ≠ 0 := by exact_mod_cast q.den_ne_zero
  have hscaled : exp2Real (exp2Scale q.den x) = (q.den : ℝ) * exp2Real x := by
    unfold exp2Real exp2Scale
    push_cast
    ring
  have hsum : (q : ℝ) + exp2Real x = ((q.den : ℝ) * exp2Real x + (q.num : ℝ)) / (q.den : ℝ) := by
    rw [add_div, mul_div_cancel_left₀ _ hden, add_comm, ← Rat.cast_def]
  unfold exp2FloorPlus
  rw [exp2Floor_eq (show 0 ≤ (exp2Scale q.den x).coef from mul_nonneg (Nat.cast_nonneg _) h), hscaled, hsum,
    ← Int.floor_add_intCast]
  exact (Int.floor_div_natCast _ _).symm

/-- Settles O21: the enclosure decides or the whole powers do, and both are right. -/
theorem expTwoIsExact : Obligations.ExpTwoIsExact :=
  fun _ h => ⟨exp2Floor_eq h, exp2FloorPlus_eq h, exp2Ge_iff h⟩

end Sys2Proof.Machine
end

section
/-! SUPPORT. What the decisions of Machine/Exact.lean denote: `max`, `min`, `select` and `frac` always those of the reals, a
comparison of linear expressions and a floor that is found those of the reals, and `f(floor(x))` wherever the expression has
bounds (00_scope.md R9, R11). -/

namespace Sys2Proof.Machine

/-! ## Signs -/

/-- A sign that is found is the real one. -/
theorem exactSign_iff {x : Exact} {b : Bool} (h : exactSign x = some b) : b = true ↔ 0 ≤ x.toReal :=
  exactSign_sound (fun _ q he => exp2Ge_iff he q) h

theorem toReal_choose_pos {t : Exact} (x y : Exact) (h : 0 ≤ t.toReal) : (Exact.choose t x y).toReal = x.toReal := by
  rw [Exact.toReal, if_pos h]

theorem toReal_choose_neg {t : Exact} (x y : Exact) (h : ¬0 ≤ t.toReal) : (Exact.choose t x y).toReal = y.toReal := by
  rw [Exact.toReal, if_neg h]

/-- `exactSelect` is the choice of the reals. -/
theorem exactSelect_toReal (x y a b : Exact) :
    (exactSelect x y a b).toReal = if x.toReal ≤ y.toReal then a.toReal else b.toReal := by
  have htest : 0 ≤ (exactSub y x).toReal ↔ x.toReal ≤ y.toReal := by rw [exactSub_toReal, sub_nonneg]
  unfold exactSelect
  split
  · next h => rw [if_pos (htest.1 ((exactSign_iff h).1 rfl))]
  · next h => rw [if_neg fun hle => Bool.false_ne_true ((exactSign_iff h).2 (htest.2 hle))]
  · by_cases hle : x.toReal ≤ y.toReal
    · rw [if_pos hle, toReal_choose_pos _ _ (htest.2 hle)]
    · rw [if_neg hle, toReal_choose_neg _ _ (mt htest.1 hle)]

/-- `exactMax` is the maximum of the reals. -/
theorem exactMax_toReal (x y : Exact) : (exactMax x y).toReal = max x.toReal y.toReal := by
  have htest : 0 ≤ (exactSub x y).toReal ↔ y.toReal ≤ x.toReal := by rw [exactSub_toReal, sub_nonneg]
  unfold exactMax
  split
  · next h => rw [max_eq_left (htest.1 ((exactSign_iff h).1 rfl))]
  · next h =>
    have hlt : x.toReal < y.toReal := not_le.1 fun hle => Bool.false_ne_true ((exactSign_iff h).2 (htest.2 hle))
    rw [max_eq_right hlt.le]
  · rfl

/-- `exactMin` is the minimum of the reals. -/
theorem exactMin_toReal (x y : Exact) : (exactMin x y).toReal = min x.toReal y.toReal := by
  have htest : 0 ≤ (exactSub y x).toReal ↔ x.toReal ≤ y.toReal := by rw [exactSub_toReal, sub_nonneg]
  unfold exactMin
  split
  · next h => rw [min_eq_left (htest.1 ((exactSign_iff h).1 rfl))]
  · next h =>
    have hlt : y.toReal < x.toReal := not_le.1 fun hle => Bool.false_ne_true ((exactSign_iff h).2 (htest.2 hle))
    rw [min_eq_right hlt.le]
  · rfl

/-! ## Floors -/

/-- A floor that is found is the real one. -/
theorem exactFloorKnown_eq {x : Exact} {n : Int} (h : exactFloorKnown x = some n) : n = ⌊x.toReal⌋ := by
  unfold exactFloorKnown at h
  split at h
  · cases h
    rw [toReal_rat, Rat.floor_cast]
  · split at h
    · next y hy =>
      obtain ⟨hc, hx⟩ := exactExp2_sound hy
      cases h
      rw [hx, exp2FloorPlus_eq hc]
      rfl
    · split at h
      · next b hb =>
        obtain ⟨hlo, hhi⟩ := exactBounds_sound x b hb
        split at h
        · next heq =>
          cases h
          have h1 := Int.floor_le_floor hlo
          have h2 := Int.floor_le_floor hhi
          rw [Rat.floor_cast] at h1 h2
          exact le_antisymm h1 (heq ▸ h2)
        · cases h
      · cases h

theorem exactFloor_eq {x : Exact} (h : (exactFloorKnown x).isSome = true) : exactFloor x = ⌊x.toReal⌋ := by
  obtain ⟨n, hn⟩ := Option.isSome_iff_exists.1 h
  rw [exactFloor, hn]
  exact exactFloorKnown_eq hn

/-- `exactFrac` is the fractional part of the reals. -/
theorem exactFrac_toReal (x : Exact) : (exactFrac x).toReal = Int.fract x.toReal := by
  unfold exactFrac
  split
  · next n hn =>
    rw [exactAddRat_toReal, Int.fract, ← exactFloorKnown_eq hn]
    push_cast
    ring
  · rfl

/-! ## Expressions with bounds -/

/-- `exactBounds` finds bounds of the expression. -/
def HasBounds (x : Exact) : Prop := (exactBounds x).isSome = true

@[simp] theorem hasBounds_rat (q : ℚ) : HasBounds (.rat q) := rfl
@[simp] theorem hasBounds_draw (n : Nat) : HasBounds (.draw n) := rfl
@[simp] theorem hasBounds_frac (x : Exact) : HasBounds (.frac x) := rfl

@[simp] theorem hasBounds_sinTurn (q : ℚ) : HasBounds (.sinTurn q) := by
  unfold HasBounds exactBounds
  split <;> rfl

@[simp] theorem hasBounds_twoPow (x : Exact) : HasBounds (.twoPow x) ↔ HasBounds x := by
  unfold HasBounds
  rw [exactBounds]
  cases exactBounds x <;> simp

/-- Bounds of a sum, a product, a maximum, a minimum or a choice are found where those of its two parts are. -/
theorem hasBounds_of_both {x y : Exact} {z : Exact} {f : ℚ × ℚ → ℚ × ℚ → ℚ × ℚ}
    (h : exactBounds z = match exactBounds x, exactBounds y with
      | some a, some b => some (f a b)
      | _, _ => none) : HasBounds z ↔ HasBounds x ∧ HasBounds y := by
  unfold HasBounds
  rw [h]
  cases exactBounds x <;> cases exactBounds y <;> simp

@[simp] theorem hasBounds_add (x y : Exact) : HasBounds (.add x y) ↔ HasBounds x ∧ HasBounds y :=
  hasBounds_of_both (f := fun a b => (a.1 + b.1, a.2 + b.2)) rfl
@[simp] theorem hasBounds_mul (x y : Exact) : HasBounds (.mul x y) ↔ HasBounds x ∧ HasBounds y :=
  hasBounds_of_both (f := productBounds) rfl
@[simp] theorem hasBounds_max (x y : Exact) : HasBounds (.max x y) ↔ HasBounds x ∧ HasBounds y :=
  hasBounds_of_both (f := fun a b => (max a.1 b.1, max a.2 b.2)) rfl
@[simp] theorem hasBounds_min (x y : Exact) : HasBounds (.min x y) ↔ HasBounds x ∧ HasBounds y :=
  hasBounds_of_both (f := fun a b => (min a.1 b.1, min a.2 b.2)) rfl
@[simp] theorem hasBounds_choose (t x y : Exact) : HasBounds (.choose t x y) ↔ HasBounds x ∧ HasBounds y :=
  hasBounds_of_both (f := fun a b => (min a.1 b.1, max a.2 b.2)) rfl

/-! ### The operations keep bounds -/

theorem HasBounds.addRat {x : Exact} (h : HasBounds x) (q : ℚ) : HasBounds (exactAddRat q x) := by
  fun_cases exactAddRat q x <;> simp_all

theorem HasBounds.split {x y : Exact} (h : HasBounds x) (hy : (exactSplit x).2 = some y) : HasBounds y := by
  fun_cases exactSplit x <;> simp_all [exactSplit]

theorem HasBounds.exactAdd {x y : Exact} (hx : HasBounds x) (hy : HasBounds y) : HasBounds (exactAdd x y) := by
  unfold Machine.exactAdd
  split
  · exact hy.addRat _
  · exact hx.addRat _
  · next hu hv => exact HasBounds.addRat ((hasBounds_add _ _).2 ⟨hx.split hu, hy.split hv⟩) _

theorem HasBounds.scale {x : Exact} (h : HasBounds x) (c : ℚ) : HasBounds (exactScale c x) := by
  fun_induction exactScale c x with
  | case2 x y ihx ihy =>
    obtain ⟨hx, hy⟩ := (hasBounds_add _ _).1 h
    exact (ihx hx).exactAdd (ihy hy)
  | _ => simp_all

theorem HasBounds.exactMul {x y : Exact} (hx : HasBounds x) (hy : HasBounds y) : HasBounds (exactMul x y) := by
  fun_cases Machine.exactMul x y with
  | case1 c y => exact hy.scale c
  | case2 x c => exact hx.scale c
  | case3 => exact (hasBounds_mul _ _).2 ⟨hx, hy⟩

theorem HasBounds.exactSub {x y : Exact} (hx : HasBounds x) (hy : HasBounds y) : HasBounds (exactSub x y) :=
  hx.exactAdd (hy.scale _)

theorem HasBounds.divRat {x : Exact} (h : HasBounds x) (c : ℚ) : HasBounds (exactDiv x (.rat c)) := h.scale _

theorem HasBounds.exactMax {x y : Exact} (hx : HasBounds x) (hy : HasBounds y) : HasBounds (exactMax x y) := by
  unfold Machine.exactMax
  split
  · exact hx
  · exact hy
  · exact (hasBounds_max _ _).2 ⟨hx, hy⟩

theorem HasBounds.exactMin {x y : Exact} (hx : HasBounds x) (hy : HasBounds y) : HasBounds (exactMin x y) := by
  unfold Machine.exactMin
  split
  · exact hx
  · exact hy
  · exact (hasBounds_min _ _).2 ⟨hx, hy⟩

theorem HasBounds.exactSelect {a b : Exact} (ha : HasBounds a) (hb : HasBounds b) (x y : Exact) :
    HasBounds (exactSelect x y a b) := by
  unfold Machine.exactSelect
  split
  · exact ha
  · exact hb
  · exact (hasBounds_choose _ _ _).2 ⟨ha, hb⟩

theorem HasBounds.exactFrac {x : Exact} (h : HasBounds x) : HasBounds (exactFrac x) := by
  unfold Machine.exactFrac
  split
  · exact h.addRat _
  · exact hasBounds_frac x

theorem hasBounds_exactSinTurn (q : ℚ) : HasBounds (exactSinTurn q) := by
  have value : ∀ t : ℚ, HasBounds (if t = 0 then .rat 0 else if t = 1 / 4 then .rat 1 else .sinTurn t) := by
    intro t
    split
    · exact hasBounds_rat 0
    · split
      · exact hasBounds_rat 1
      · exact hasBounds_sinTurn t
  unfold exactSinTurn
  simp only
  split
  · exact value _
  · exact (value _).scale _

theorem hasBounds_exactAtFloorFrom (x : Exact) {f : Int → Exact} (hf : ∀ i, HasBounds (f i)) (lo : Int) (n : Nat) :
    HasBounds (exactAtFloorFrom x f lo n) := by
  induction n with
  | zero => exact hf lo
  | succ n ih => exact (hf _).exactSelect ih _ _

theorem hasBounds_exactAtFloor (x : Exact) {f : Int → Exact} (hf : ∀ i, HasBounds (f i)) :
    HasBounds (exactAtFloor x f) := by
  unfold exactAtFloor
  split
  · exact hf _
  · split
    · exact hasBounds_exactAtFloorFrom x hf _ _
    · exact hf _

/-! ## `f(floor(x))` -/

/-- Among `lo, …, lo + n` the comparisons find the floor, where it is one of them. -/
theorem exactAtFloorFrom_toReal (x : Exact) (f : Int → Exact) (lo : Int) (n : Nat) (h0 : lo ≤ ⌊x.toReal⌋)
    (h1 : ⌊x.toReal⌋ ≤ lo + n) : (exactAtFloorFrom x f lo n).toReal = (f ⌊x.toReal⌋).toReal := by
  induction n with
  | zero =>
    have heq : ⌊x.toReal⌋ = lo := by push_cast at h1; omega
    rw [exactAtFloorFrom, heq]
  | succ n ih =>
    have htest : (Exact.rat (lo + (n + 1 : Nat) : Int)).toReal ≤ x.toReal ↔ lo + (n + 1 : Nat) ≤ ⌊x.toReal⌋ := by
      rw [Int.le_floor, toReal_rat, Rat.cast_intCast]
    rw [exactAtFloorFrom, exactSelect_toReal]
    simp only [htest]
    split
    · next hle => rw [le_antisymm h1 hle]
    · next hgt => exact ih (by push_cast at hgt; omega)

/-- `exactAtFloor` takes the real floor, where the expression has bounds. -/
theorem exactAtFloor_toReal {x : Exact} (h : HasBounds x) (f : Int → Exact) :
    (exactAtFloor x f).toReal = (f ⌊x.toReal⌋).toReal := by
  unfold exactAtFloor
  split
  · next n hn => rw [exactFloorKnown_eq hn]
  · split
    · next b hb =>
      obtain ⟨hlo, hhi⟩ := exactBounds_sound x b hb
      have h1 := Int.floor_le_floor hlo
      have h2 := Int.floor_le_floor hhi
      rw [Rat.floor_cast] at h1 h2
      exact exactAtFloorFrom_toReal x f _ _ h1 (by omega)
    · next hb =>
      unfold HasBounds at h
      rw [hb] at h
      cases h

/-! ## Linear expressions -/

theorem isLinear_rat (q : ℚ) : isLinear (.rat q) = true := rfl
theorem isLinear_draw (n : Nat) : isLinear (.draw n) = true := rfl

theorem isLinear_add (x y : Exact) : isLinear (.add x y) = true ↔ isLinear x = true ∧ isLinear y = true := by
  unfold isLinear
  rw [exactLinear]
  cases exactLinear x <;> cases exactLinear y <;> simp

theorem isLinear_mul_rat (c : ℚ) (x : Exact) : isLinear (.mul (.rat c) x) = isLinear x := by
  unfold isLinear
  rw [exactLinear]
  cases exactLinear x <;> rfl

theorem isLinear_addRat {x : Exact} (h : isLinear x = true) (q : ℚ) : isLinear (exactAddRat q x) = true := by
  fun_cases exactAddRat q x <;> simp_all [isLinear_rat, isLinear_add]

theorem isLinear_split {x y : Exact} (h : isLinear x = true) (hy : (exactSplit x).2 = some y) : isLinear y = true := by
  fun_cases exactSplit x <;> simp_all [exactSplit, isLinear_add]

theorem isLinear_exactAdd {x y : Exact} (hx : isLinear x = true) (hy : isLinear y = true) :
    isLinear (exactAdd x y) = true := by
  unfold exactAdd
  split
  · exact isLinear_addRat hy _
  · exact isLinear_addRat hx _
  · next hu hv => exact isLinear_addRat ((isLinear_add _ _).2 ⟨isLinear_split hx hu, isLinear_split hy hv⟩) _

theorem isLinear_scale {x : Exact} (h : isLinear x = true) (c : ℚ) : isLinear (exactScale c x) = true := by
  fun_induction exactScale c x with
  | case2 x y ihx ihy =>
    obtain ⟨hx, hy⟩ := (isLinear_add _ _).1 h
    exact isLinear_exactAdd (ihx hx) (ihy hy)
  | _ => simp_all [isLinear_rat, isLinear_mul_rat]

theorem isLinear_exactSub {x y : Exact} (hx : isLinear x = true) (hy : isLinear y = true) :
    isLinear (exactSub x y) = true := isLinear_exactAdd hx (isLinear_scale hy _)

/-- The comparison of linear expressions is that of the reals. -/
theorem exactLe_iff {x y : Exact} (hx : isLinear x = true) (hy : isLinear y = true) :
    exactLe x y = true ↔ x.toReal ≤ y.toReal := by
  obtain ⟨b, hb⟩ := Option.isSome_iff_exists.1 (exactSign_linear (isLinear_exactSub hy hx))
  unfold exactLe
  rw [hb]
  exact (exactSign_iff hb).trans (by rw [exactSub_toReal, sub_nonneg])

end Sys2Proof.Machine
end

section
/-! SUPPORT. The enclosure of `2 ^ q` is tight, and so every floor that a frequency or a ramp length asks for is found
(41_oscillator.md R142, 42_envelope.md R183, 43_voice.md R226). -/

namespace Sys2Proof.Machine

/-! ## How far the ends of an enclosure are apart -/

theorem twoRoots_ge : ∀ root ∈ twoRoots, 2 ^ rootScale ≤ root := by decide +kernel

/-- `lo` and `hi` enclose a scaled value to within `width` parts in `2 ^ rootScale`. -/
structure Encloses (value width : ℚ) (lo hi : Nat) : Prop where
  /-- The lower end is not too low. -/
  lower : value * (2 ^ rootScale - width) ≤ lo
  /-- The upper end is not too high. -/
  upper : (hi : ℚ) ≤ value * (2 ^ rootScale + width)

/-- A wider enclosure is still one. -/
theorem Encloses.widen {value width : ℚ} {lo hi : Nat} (h : Encloses value width lo hi) (hv : 1 ≤ value) :
    Encloses value (width + 4) lo hi where
  lower := h.lower.trans' (mul_le_mul_of_nonneg_left (by linarith) (by linarith))
  upper := h.upper.trans (mul_le_mul_of_nonneg_left (by linarith) (by linarith))

/-- The step of `encloseDigits` at a digit 1 widens the enclosure by at most 4 parts. -/
theorem Encloses.digit {value width : ℚ} {lo hi root : Nat} (h : Encloses value width lo hi) (hv : 1 ≤ value)
    (hroot : 1 ≤ (root : ℚ) / 2 ^ rootScale) (hw : width ≤ 2 ^ rootScale / 2) :
    Encloses (value * (root / 2 ^ rootScale)) (width + 4) (lo * root / 2 ^ rootScale)
      (hi * (root + 2) / 2 ^ rootScale + 1) := by
  have hs : (0 : ℚ) < 2 ^ rootScale := by positivity
  have hgrow : value ≤ value * (root / 2 ^ rootScale) := le_mul_of_one_le_right (by linarith) hroot
  constructor
  · have hcut : (lo * root : ℚ) / 2 ^ rootScale < ((lo * root / 2 ^ rootScale : Nat) : ℚ) + 1 := by
      rw [div_lt_iff₀ hs]
      have hdiv := Nat.lt_div_mul_add (a := lo * root) (b := 2 ^ rootScale) (by positivity)
      have hnat : lo * root < (lo * root / 2 ^ rootScale + 1) * 2 ^ rootScale := by
        rw [Nat.add_mul, Nat.one_mul]
        exact hdiv
      exact_mod_cast hnat
    have hmul : value * (2 ^ rootScale - width) * (root / 2 ^ rootScale) ≤ lo * (root / 2 ^ rootScale) :=
      mul_le_mul_of_nonneg_right h.lower (by positivity)
    have hform : (lo : ℚ) * (root / 2 ^ rootScale) = lo * root / 2 ^ rootScale := by ring
    linarith
  · have hcut : ((hi * (root + 2) / 2 ^ rootScale : Nat) : ℚ) ≤
        hi * (root / 2 ^ rootScale) + 2 * (hi / 2 ^ rootScale) := by
      have hdiv := Nat.cast_div_le (α := ℚ) (m := hi * (root + 2)) (n := 2 ^ rootScale)
      push_cast at hdiv
      exact hdiv.trans_eq (by ring)
    have hmul : hi * ((root : ℚ) / 2 ^ rootScale) ≤ value * (2 ^ rootScale + width) * (root / 2 ^ rootScale) :=
      mul_le_mul_of_nonneg_right h.upper (by positivity)
    have hsmall : (hi : ℚ) / 2 ^ rootScale ≤ value * (3 / 2) := by
      rw [div_le_iff₀ hs, mul_assoc]
      exact h.upper.trans (mul_le_mul_of_nonneg_left (by linarith) (by linarith))
    push_cast
    linarith

/-- Every digit widens the enclosure of a value by at most 4 parts, and the digits cut off by one in `2 ^ rootCount`. -/
theorem encloseDigits_tight (roots : List Nat) (hroots : ∀ root ∈ roots, 2 ^ rootScale ≤ root) :
    ∀ (frac lo hi : Nat) (value width : ℚ), 1 ≤ value → width + 4 * roots.length ≤ 2 ^ rootScale / 2 →
      Encloses value width lo hi →
      ∃ v : ℚ, 1 ≤ v ∧ v * (2 ^ rootScale - (width + 4 * roots.length)) ≤ (encloseDigits roots frac lo hi).1 ∧
        ((encloseDigits roots frac lo hi).2 : ℚ) ≤
          v * (2 ^ rootScale + (width + 4 * roots.length)) * (1 + 1 / 2 ^ rootCount) + 1 := by
  induction roots with
  | nil =>
    intro frac lo hi value width hv _ h
    have hcut : ((hi / 2 ^ rootCount : Nat) : ℚ) ≤ hi / 2 ^ rootCount := by
      exact_mod_cast Nat.cast_div_le (α := ℚ) (m := hi) (n := 2 ^ rootCount)
    refine ⟨value, hv, by simpa [encloseDigits] using h.lower, ?_⟩
    simp only [encloseDigits, List.length_nil, Nat.cast_zero, mul_zero, add_zero]
    push_cast
    calc (hi : ℚ) + ((hi / 2 ^ rootCount : Nat) : ℚ) + 1 ≤ hi + hi / 2 ^ rootCount + 1 := by linarith
      _ = hi * (1 + 1 / 2 ^ rootCount) + 1 := by ring
      _ ≤ value * (2 ^ rootScale + width) * (1 + 1 / 2 ^ rootCount) + 1 := by
        gcongr
        exact h.upper
  | cons root roots ih =>
    intro frac lo hi value width hv hroom h
    obtain ⟨hroot, hrest⟩ := List.forall_mem_cons.1 hroots
    have hratio : (1 : ℚ) ≤ root / 2 ^ rootScale := by
      rw [le_div_iff₀ (by positivity), one_mul]
      exact_mod_cast hroot
    have hcount : (0 : ℚ) ≤ roots.length := Nat.cast_nonneg _
    have hlen : width + 4 * ((root :: roots).length : ℚ) = width + 4 + 4 * roots.length := by
      rw [List.length_cons]
      push_cast
      ring
    rw [hlen] at hroom ⊢
    rw [encloseDigits]
    split
    · exact ih hrest _ _ _ _ _ (hv.trans (le_mul_of_one_le_right (by linarith) hratio)) hroom
        (h.digit hv hratio (by linarith))
    · exact ih hrest _ _ _ _ _ hv hroom (h.widen hv)

/-- The ends of an enclosure differ by less than one part in `2 ^ 60`. -/
theorem encloseTwoPow_tight (r : ℚ) :
    ((encloseTwoPow r).2 : ℚ) ≤ (encloseTwoPow r).1 * (1 + 1 / 2 ^ 60) := by
  obtain ⟨v, hv, hlo, hhi⟩ := encloseDigits_tight twoRoots twoRoots_ge (⌊r * 2 ^ rootCount⌋).toNat (2 ^ rootScale)
    (2 ^ rootScale) 1 0 le_rfl (by rw [twoRoots_length]; norm_num [rootCount, rootScale])
    ⟨by push_cast; linarith, by push_cast; linarith⟩
  rw [twoRoots_length] at hlo hhi
  change v * _ ≤ ((encloseTwoPow r).1 : ℚ) at hlo
  change ((encloseTwoPow r).2 : ℚ) ≤ _ at hhi
  norm_num [rootCount, rootScale] at hlo hhi ⊢
  linarith

/-- The bounds of `2 ^ q` are positive numbers in order, less than one part in `2 ^ 60` apart. -/
theorem twoPowBounds_tight (q : ℚ) : (twoPowBounds q).1 ≤ (twoPowBounds q).2 ∧
    (twoPowBounds q).2 ≤ (twoPowBounds q).1 * (1 + 1 / 2 ^ 60) := by
  refine ⟨?_, ?_⟩
  · obtain ⟨h1, h2⟩ := twoPowBounds_sound q
    exact_mod_cast h1.trans h2
  · have hp := twoPowInt_pos ⌊q⌋
    have h := mul_le_mul_of_nonneg_left (encloseTwoPow_tight (Int.fract q)) hp.le
    unfold twoPowBounds
    simp only
    rw [div_mul_eq_mul_div, mul_assoc]
    exact div_le_div_of_nonneg_right h (by positivity)

/-! ## Sums, products and quotients with a rational -/

theorem exactAdd_rat_right (x : Exact) (q : ℚ) : exactAdd x (.rat q) = exactAddRat q x := by
  cases hx : (exactSplit x).2 with
  | some y =>
    unfold exactAdd
    rw [hx]
    rfl
  | none =>
    fun_cases exactSplit x with
    | case1 p => simp [exactAdd, exactSplit, exactAddRat, add_comm]
    | _ => simp_all [exactSplit]

theorem exactMul_rat_right (x : Exact) (c : ℚ) : exactMul x (.rat c) = exactScale c x := by
  cases x with
  | rat p => simp [exactMul, exactScale, mul_comm]
  | _ => rfl

theorem exactDiv_rat_right (x : Exact) (c : ℚ) : exactDiv x (.rat c) = exactScale c⁻¹ x := rfl

theorem exactSub_rat_right (x : Exact) (q : ℚ) : exactSub x (.rat q) = exactAddRat (-q) x := by
  rw [exactSub, exactScale, exactAdd_rat_right, neg_one_mul]

/-! ## Rationals -/

/-- The expression is a rational. -/
def IsRat (x : Exact) : Prop := ∃ q, x = .rat q

theorem isRat_rat (q : ℚ) : IsRat (.rat q) := ⟨q, rfl⟩

theorem IsRat.hasBounds {x : Exact} (h : IsRat x) : HasBounds x := by
  obtain ⟨q, rfl⟩ := h
  exact hasBounds_rat q

theorem IsRat.isLinear {x : Exact} (h : IsRat x) : isLinear x = true := by
  obtain ⟨q, rfl⟩ := h
  exact isLinear_rat q

theorem IsRat.exactAdd {x y : Exact} (hx : IsRat x) (hy : IsRat y) : IsRat (exactAdd x y) := by
  obtain ⟨p, rfl⟩ := hx
  obtain ⟨q, rfl⟩ := hy
  exact ⟨p + q, rfl⟩

theorem IsRat.scale {x : Exact} (h : IsRat x) (c : ℚ) : IsRat (exactScale c x) := by
  obtain ⟨q, rfl⟩ := h
  exact ⟨c * q, rfl⟩

theorem IsRat.exactSub {x y : Exact} (hx : IsRat x) (hy : IsRat y) : IsRat (exactSub x y) := hx.exactAdd (hy.scale _)

theorem IsRat.exactMul {x y : Exact} (hx : IsRat x) (hy : IsRat y) : IsRat (exactMul x y) := by
  obtain ⟨p, rfl⟩ := hx
  exact hy.scale p

theorem IsRat.exactDiv {x y : Exact} (hx : IsRat x) (hy : IsRat y) : IsRat (exactDiv x y) := by
  obtain ⟨q, rfl⟩ := hy
  exact hx.scale q⁻¹

/-! ## Multiples of a power of 2 -/

/-- `c * 2 ^ e`. -/
def scaledPow (c e : ℚ) : Exact := exactScale c (exactTwoPow (.rat e))

/-- `2 ^ e` is a rational or a power that is left as it is. -/
theorem exactTwoPow_rat_cases (e : ℚ) :
    (∃ p, exactTwoPow (.rat e) = .rat p) ∨ exactTwoPow (.rat e) = .twoPow (.rat e) := by
  by_cases h : e.den = 1
  · exact .inl ⟨twoPowInt e.num, if_pos h⟩
  · exact .inr (if_neg h)

/-- A multiple of `2 ^ e` is a rational, the power itself or a product with a factor other than 0 and 1. -/
theorem scaledPow_cases (c e : ℚ) :
    (∃ p, scaledPow c e = .rat p) ∨ (c = 1 ∧ scaledPow c e = .twoPow (.rat e)) ∨
      (c ≠ 0 ∧ c ≠ 1 ∧ scaledPow c e = .mul (.rat c) (.twoPow (.rat e))) := by
  unfold scaledPow
  rcases exactTwoPow_rat_cases e with ⟨p, hp⟩ | hp
  · rw [hp]
    exact .inl ⟨c * p, rfl⟩
  · rw [hp]
    by_cases h0 : c = 0
    · exact .inl ⟨0, by simp [exactScale, h0]⟩
    · by_cases h1 : c = 1
      · exact .inr (.inl ⟨h1, by simp [exactScale, h1]⟩)
      · exact .inr (.inr ⟨h0, h1, by simp [exactScale, h0, h1]⟩)

/-- A multiple of a multiple of a power of 2 is one. -/
theorem exactScale_scaledPow (a c e : ℚ) : exactScale a (scaledPow c e) = scaledPow (a * c) e := by
  unfold scaledPow
  rcases exactTwoPow_rat_cases e with ⟨p, hp⟩ | hp
  · simp [hp, exactScale, mul_assoc]
  · rw [hp]
    by_cases h0 : c = 0
    · simp [exactScale, h0]
    · by_cases h1 : c = 1
      · simp [exactScale, h1]
      · simp [exactScale, h0, h1]

/-- `q + c * 2 ^ e`, for c at least 0, is a rational or has the form that `exactExp2` knows. -/
theorem addRat_scaledPow_cases (q : ℚ) {c : ℚ} (hc : 0 ≤ c) (e : ℚ) :
    (∃ p, exactAddRat q (scaledPow c e) = .rat p) ∨ (exactExp2 (exactAddRat q (scaledPow c e))).isSome = true := by
  rcases scaledPow_cases c e with ⟨p, hp⟩ | ⟨h1, hp⟩ | ⟨h0, h1, hp⟩
  · rw [hp]
    exact .inl ⟨q + p, rfl⟩
  · rw [hp]
    by_cases hq : q = 0
    · exact .inr (by simp [exactAddRat, exactExp2, exactSplit, hq])
    · exact .inr (by simp [exactAddRat, exactExp2, exactSplit, hq])
  · rw [hp]
    by_cases hq : q = 0
    · exact .inr (by simp [exactAddRat, exactExp2, exactSplit, hq, hc])
    · exact .inr (by simp [exactAddRat, exactExp2, exactSplit, hq, hc])

theorem exactFloorKnown_of_exp2 {x : Exact} (h : (∃ p, x = .rat p) ∨ (exactExp2 x).isSome = true) :
    (exactFloorKnown x).isSome = true := by
  rcases h with ⟨p, rfl⟩ | h
  · rfl
  · obtain ⟨y, hy⟩ := Option.isSome_iff_exists.1 h
    unfold exactFloorKnown
    split
    · rfl
    · rw [hy]
      rfl

theorem exactFloorKnown_of_bounds {x : Exact} {b : ℚ × ℚ} (hb : exactBounds x = some b) (h : ⌊b.1⌋ = ⌊b.2⌋) :
    (exactFloorKnown x).isSome = true := by
  unfold exactFloorKnown
  split
  · rfl
  · split
    · rfl
    · rw [hb]
      simp only [if_pos h, Option.isSome_some]

theorem exactSign_of_exp2 {x : Exact} (h : (∃ p, x = .rat p) ∨ (exactExp2 x).isSome = true) :
    (exactSign x).isSome = true := by
  rcases h with ⟨p, rfl⟩ | h
  · rfl
  · obtain ⟨y, hy⟩ := Option.isSome_iff_exists.1 h
    unfold exactSign
    split
    · rfl
    · rw [hy]
      rfl

/-- The floor of `q + c * 2 ^ e` is found. -/
theorem exactFloorKnown_addRat_scaledPow (q : ℚ) {c : ℚ} (hc : 0 ≤ c) (e : ℚ) :
    (exactFloorKnown (exactAddRat q (scaledPow c e))).isSome = true :=
  exactFloorKnown_of_exp2 (addRat_scaledPow_cases q hc e)

/-- The floor of `c * 2 ^ e` is found. -/
theorem exactFloorKnown_scaledPow {c : ℚ} (hc : 0 ≤ c) (e : ℚ) : (exactFloorKnown (scaledPow c e)).isSome = true := by
  have hzero : exactAddRat 0 (scaledPow c e) = scaledPow c e := by
    rcases scaledPow_cases c e with ⟨p, hp⟩ | ⟨-, hp⟩ | ⟨-, -, hp⟩ <;> simp [hp, exactAddRat]
  rw [← hzero]
  exact exactFloorKnown_addRat_scaledPow 0 hc e

/-! ## The floor of an increment -/

/-- `exactMin` answers one of the two, or keeps the question open where no sign is found. -/
theorem exactMin_cases (x y : Exact) : exactMin x y = x ∨ exactMin x y = y ∨
    (exactSign (exactSub y x) = none ∧ exactMin x y = .min x y) := by
  unfold exactMin
  split
  · exact .inl rfl
  · exact .inr (.inl rfl)
  · next h => exact .inr (.inr ⟨h, rfl⟩)

/-- `exactMax` answers one of the two where a sign is found. -/
theorem exactMax_cases {x y : Exact} (h : (exactSign (exactSub x y)).isSome = true) :
    exactMax x y = x ∨ exactMax x y = y := by
  unfold exactMax
  split
  · exact .inl rfl
  · exact .inr rfl
  · next hnone =>
    rw [hnone] at h
    cases h

theorem IsRat.exactMax {x y : Exact} (hx : IsRat x) (hy : IsRat y) : IsRat (exactMax x y) := by
  obtain ⟨p, rfl⟩ := hx
  obtain ⟨q, rfl⟩ := hy
  rcases exactMax_cases (x := .rat p) (y := .rat q) rfl with h | h
  · exact ⟨p, h⟩
  · exact ⟨q, h⟩

theorem IsRat.exactMin {x y : Exact} (hx : IsRat x) (hy : IsRat y) : IsRat (exactMin x y) := by
  obtain ⟨p, rfl⟩ := hx
  obtain ⟨q, rfl⟩ := hy
  rcases exactMin_cases (.rat p) (.rat q) with h | h | ⟨h, -⟩
  · exact ⟨p, h⟩
  · exact ⟨q, h⟩
  · cases h

/-- Where the bounds do not tell a multiple of a power of 2 from 20000, they stand on both sides of it. -/
theorem bounds_straddle {c e : ℚ} (hc : 0 < c)
    (hnone : exactSign (exactSub (.rat 20000) (.mul (.rat c) (.twoPow (.rat e)))) = none) :
    c * (twoPowBounds e).1 ≤ 20000 ∧ 20000 < c * (twoPowBounds e).2 := by
  have hform : exactSub (.rat 20000) (.mul (.rat c) (.twoPow (.rat e))) =
      .add (.rat 20000) (.mul (.rat (-c)) (.twoPow (.rat e))) := by
    have hone : -c ≠ 1 := by linarith
    simp [exactSub, exactScale, exactAdd, exactSplit, exactAddRat, hc.ne', hone]
  rw [hform] at hnone
  obtain ⟨hle, -⟩ := twoPowBounds_tight e
  have hmul : c * (twoPowBounds e).1 ≤ c * (twoPowBounds e).2 := mul_le_mul_of_nonneg_left hle hc.le
  have hbounds : exactBounds (.add (.rat 20000) (.mul (.rat (-c)) (.twoPow (.rat e)))) =
      some (20000 + -(c * (twoPowBounds e).2), 20000 + -(c * (twoPowBounds e).1)) := by
    simp [exactBounds, productBounds, hmul]
  have hexp : exactExp2 (.add (.rat 20000) (.mul (.rat (-c)) (.twoPow (.rat e)))) = none := by
    simp [exactExp2, exactSplit, hc]
  simp only [exactSign, hexp, exactSignByBounds, hbounds] at hnone
  split_ifs at hnone with h1 h2
  exact ⟨by linarith, by linarith⟩

/-- A frequency times `2 ^ 32 / FS`: the argument of the floor in `INCR` (R142). -/
def incrementArgument (f : Exact) : Exact := exactDiv (exactMul f (.rat (2 ^ 32 : Nat))) (.rat (48000 : Nat))

/-- The floor of an increment is found where the clamp of its frequency at 20000 Hz stays open: the frequency is then so close
to 20000 that both ends of its bounds have the floor that the clamp's value has. -/
theorem exactFloorKnown_openClamp {e : ℚ}
    (hnone : exactSign (exactSub (.rat 20000) (.mul (.rat 440) (.twoPow (.rat e)))) = none) :
    (exactFloorKnown (incrementArgument (.min (.mul (.rat 440) (.twoPow (.rat e))) (.rat 20000)))).isSome = true := by
  obtain ⟨hlow, hhigh⟩ := bounds_straddle (by norm_num) hnone
  obtain ⟨hle, htight⟩ := twoPowBounds_tight e
  have hform : incrementArgument (.min (.mul (.rat 440) (.twoPow (.rat e))) (.rat 20000)) =
      .mul (.rat (2 ^ 32 / 48000)) (.min (.mul (.rat 440) (.twoPow (.rat e))) (.rat 20000)) := by
    norm_num [incrementArgument, exactMul_rat_right, exactDiv_rat_right, exactScale]
  have hmul : (440 : ℚ) * (twoPowBounds e).1 ≤ 440 * (twoPowBounds e).2 := by linarith
  have hbounds : exactBounds (.mul (.rat (2 ^ 32 / 48000)) (.min (.mul (.rat 440) (.twoPow (.rat e))) (.rat 20000))) =
      some (2 ^ 32 / 48000 * (440 * (twoPowBounds e).1), 2 ^ 32 / 48000 * 20000) := by
    have hscaled : (2 ^ 32 / 48000 : ℚ) * (440 * (twoPowBounds e).1) ≤ 2 ^ 32 / 48000 * 20000 := by linarith
    simp only [exactBounds, productBounds, min_self, max_self, min_eq_left hmul, max_eq_right hmul, min_eq_left hlow,
      min_eq_right hhigh.le, min_eq_left hscaled, max_eq_right hscaled]
  have htop : ⌊(2 ^ 32 / 48000 * 20000 : ℚ)⌋ = 1789569706 := by norm_num [Int.floor_eq_iff]
  have hbottom : ⌊(2 ^ 32 / 48000 * (440 * (twoPowBounds e).1) : ℚ)⌋ = 1789569706 := by
    rw [Int.floor_eq_iff]
    push_cast
    constructor <;> linarith
  rw [hform]
  exact exactFloorKnown_of_bounds hbounds (hbottom.trans htop.symm)

/-- The floor of the increment of a clamped pitch is found. -/
theorem exactFloorKnown_clampedPitch (e : ℚ) :
    (exactFloorKnown (incrementArgument (exactMin (exactMax (scaledPow 440 e) (.rat 20)) (.rat 20000)))).isSome = true := by
  have hrat : ∀ q : ℚ, (exactFloorKnown (incrementArgument (.rat q))).isSome = true := fun q => rfl
  have hpow : (exactFloorKnown (incrementArgument (scaledPow 440 e))).isSome = true := by
    rw [incrementArgument, exactMul_rat_right, exactDiv_rat_right, exactScale_scaledPow, exactScale_scaledPow]
    exact exactFloorKnown_scaledPow (by positivity) e
  have hmax : (exactSign (exactSub (scaledPow 440 e) (.rat 20))).isSome = true := by
    rw [exactSub_rat_right]
    exact exactSign_of_exp2 (addRat_scaledPow_cases _ (by norm_num) e)
  rcases exactMax_cases hmax with h | h
  · rw [h]
    rcases exactMin_cases (scaledPow 440 e) (.rat 20000) with hm | hm | ⟨hnone, hm⟩
    · rw [hm]
      exact hpow
    · rw [hm]
      exact hrat _
    · rw [hm]
      rcases scaledPow_cases 440 e with ⟨p, hp⟩ | ⟨h1, -⟩ | ⟨-, -, hp⟩
      · rw [hp] at hnone
        cases hnone
      · norm_num at h1
      · rw [hp] at hnone ⊢
        exact exactFloorKnown_openClamp hnone
  · rw [h]
    obtain ⟨p, hp⟩ := (isRat_rat 20).exactMin (isRat_rat 20000)
    rw [hp]
    exact hrat p

end Sys2Proof.Machine
end

section
/-! SUPPORT. The two reference configurations compute the same real numbers: what each function of the signal path answers over the
exact reals denotes what it answers over ℝ (00_scope.md R6, R9). -/

namespace Sys2Proof.Machine

/-! ## NUM of the configuration that runs -/

@[simp] theorem ref_ofRat (q : ℚ) : (ref.num.ofRat q).toReal = q := rfl
@[simp] theorem ref_add (x y : Exact) :
    (@HAdd.hAdd _ _ _ (@instHAdd _ ref.num.toAdd) x y).toReal = x.toReal + y.toReal := exactAdd_toReal x y
@[simp] theorem ref_sub (x y : Exact) :
    (@HSub.hSub _ _ _ (@instHSub _ ref.num.toSub) x y).toReal = x.toReal - y.toReal := exactSub_toReal x y
@[simp] theorem ref_mul (x y : Exact) :
    (@HMul.hMul _ _ _ (@instHMul _ ref.num.toMul) x y).toReal = x.toReal * y.toReal := exactMul_toReal x y
@[simp] theorem ref_div (x y : Exact) :
    (@HDiv.hDiv _ _ _ (@instHDiv _ ref.num.toDiv) x y).toReal = x.toReal / y.toReal := exactDiv_toReal x y
@[simp] theorem ref_max (x y : Exact) : (ref.num.max x y).toReal = max x.toReal y.toReal := exactMax_toReal x y
@[simp] theorem ref_min (x y : Exact) : (ref.num.min x y).toReal = min x.toReal y.toReal := exactMin_toReal x y
@[simp] theorem ref_twoPow (x : Exact) : (ref.num.twoPow x).toReal = (2 : ℝ) ^ x.toReal := exactTwoPow_toReal x
@[simp] theorem ref_frac (x : Exact) : (ref.num.frac x).toReal = Int.fract x.toReal := exactFrac_toReal x
@[simp] theorem ref_select (x y a b : Exact) :
    (ref.num.select x y a b).toReal = if x.toReal ≤ y.toReal then a.toReal else b.toReal :=
  exactSelect_toReal x y a b
theorem ref_atFloor {x : Exact} (h : HasBounds x) (f : Int → Exact) :
    (ref.num.atFloor x f).toReal = (f ⌊x.toReal⌋).toReal := exactAtFloor_toReal h f

/-! ## NUM of the configuration over ℝ -/

@[simp] theorem realRef_ofRat (q : ℚ) : realRef.num.ofRat q = (q : ℝ) := rfl
@[simp] theorem realRef_add (x y : ℝ) : @HAdd.hAdd _ _ _ (@instHAdd _ realRef.num.toAdd) x y = x + y := rfl
@[simp] theorem realRef_sub (x y : ℝ) : @HSub.hSub _ _ _ (@instHSub _ realRef.num.toSub) x y = x - y := rfl
@[simp] theorem realRef_mul (x y : ℝ) : @HMul.hMul _ _ _ (@instHMul _ realRef.num.toMul) x y = x * y := rfl
@[simp] theorem realRef_div (x y : ℝ) : @HDiv.hDiv _ _ _ (@instHDiv _ realRef.num.toDiv) x y = x / y := rfl
@[simp] theorem realRef_max (x y : ℝ) : realRef.num.max x y = max x y := rfl
@[simp] theorem realRef_min (x y : ℝ) : realRef.num.min x y = min x y := rfl
@[simp] theorem realRef_twoPow (x : ℝ) : realRef.num.twoPow x = (2 : ℝ) ^ x := rfl
@[simp] theorem realRef_frac (x : ℝ) : realRef.num.frac x = Int.fract x := rfl
@[simp] theorem realRef_floor (x : ℝ) : realRef.num.floor x = ⌊x⌋ := rfl
@[simp] theorem realRef_select (x y a b : ℝ) : realRef.num.select x y a b = if x ≤ y then a else b := rfl
@[simp] theorem realRef_atFloor (x : ℝ) (f : Int → ℝ) : realRef.num.atFloor x f = f ⌊x⌋ := rfl
theorem realRef_le (x y : ℝ) : realRef.num.le x y = true ↔ x ≤ y := decide_eq_true_iff

/-! ## The helpers of R11 -/

@[simp] theorem numClamp_toReal (x lo hi : Exact) :
    (numClamp ref x lo hi).toReal = numClamp realRef x.toReal lo.toReal hi.toReal := by simp [numClamp]

@[simp] theorem numClamp01_toReal (x : Exact) : (numClamp01 ref x).toReal = numClamp01 realRef x.toReal := by
  simp [numClamp01]

@[simp] theorem numSum_toReal (xs : List Exact) : (numSum ref xs).toReal = numSum realRef (xs.map Exact.toReal) := by
  have fold : ∀ (xs : List Exact) (a : Exact),
      (xs.foldl (fun sum x => letI := ref.num; sum + x) a).toReal =
        (xs.map Exact.toReal).foldl (fun sum x => @HAdd.hAdd _ _ _ (@instHAdd _ realRef.num.toAdd) sum x) a.toReal := by
    intro xs
    induction xs with
    | nil => exact fun a => rfl
    | cons x xs ih =>
      intro a
      rw [List.foldl_cons, ih, ref_add]
      rfl
  exact fold xs (numOf ref 0)

/-! ## The sine lookup (R143) -/

theorem hasBounds_sineOf {x : Exact} (h : HasBounds x) : HasBounds (sineOf ref x) := by
  have hu : HasBounds (exactMul (exactFrac x) (.rat 2048)) := h.exactFrac.exactMul (hasBounds_rat _)
  refine hasBounds_exactAtFloor _ fun i => (hasBounds_exactSinTurn _).exactAdd ?_
  exact (hu.exactSub (hasBounds_rat _)).exactMul ((hasBounds_exactSinTurn _).exactSub (hasBounds_exactSinTurn _))

theorem sineOf_toReal {x : Exact} (h : HasBounds x) : (sineOf ref x).toReal = sineOf realRef x.toReal := by
  have hu : HasBounds (exactMul (exactFrac x) (.rat 2048)) := h.exactFrac.exactMul (hasBounds_rat _)
  refine (ref_atFloor (x := letI := ref.num; ref.num.frac x * ref.num.ofRat ref.tableSize) hu _).trans ?_
  simp only [sineOf, sineLookup, realRef_atFloor, ref_add, ref_mul, ref_sub, ref_frac, ref_ofRat, realRef_add,
    realRef_mul, realRef_sub, realRef_frac, realRef_ofRat, ref_tableSize, realRef_tableSize, ref_sineTable,
    realRef_sineTable, exactSinTurn_toReal]

/-! ## The warps (R146-R153) -/

@[simp] theorem ref_resoAmp : ref.resoAmp = .rat (1 / 8) := rfl
@[simp] theorem ref_resoMult (n : Nat) : ref.resoMult n = .rat ((n : ℚ) + 1) := rfl
@[simp] theorem realRef_resoAmp : realRef.resoAmp = ((1 / 8 : ℚ) : ℝ) := rfl
@[simp] theorem realRef_resoMult (n : Nat) : realRef.resoMult n = (((n : ℚ) + 1 : ℚ) : ℝ) := rfl

theorem hasBounds_warpSaw {p : Exact} (h : HasBounds p) : HasBounds (warpSaw ref.num p) :=
  (hasBounds_rat _).exactAdd (h.divRat _)

theorem hasBounds_warpSquare {p : Exact} (h : HasBounds p) : HasBounds (warpSquare ref.num p) :=
  HasBounds.exactSelect ((hasBounds_rat _).exactAdd ((h.exactSub (hasBounds_rat _)).divRat _))
    ((hasBounds_rat _).exactAdd (h.divRat _)) _ _

theorem hasBounds_warpPulse {p : Exact} (h : HasBounds p) : HasBounds (warpPulse ref.num p) :=
  HasBounds.exactSelect ((hasBounds_rat _).exactAdd ((h.exactSub (hasBounds_rat _)).divRat _))
    ((hasBounds_rat _).exactAdd h) _ _

theorem hasBounds_warpDsine {p : Exact} (h : HasBounds p) : HasBounds (warpDsine ref.num p) :=
  ((hasBounds_rat _).exactMul h).exactFrac

theorem hasBounds_resoPhase {p : Exact} (h : HasBounds p) (n : Nat) : HasBounds (resoPhase ref.num ref.toTables n p) :=
  (h.exactAdd ((hasBounds_rat _).exactMul (hasBounds_sineOf ((hasBounds_rat _).exactMul h).exactFrac))).exactFrac

theorem warpSaw_toReal (p : Exact) : (warpSaw ref.num p).toReal = warpSaw realRef.num p.toReal := by
  simp only [warpSaw, ref_add, ref_div, ref_ofRat, realRef_add, realRef_div, realRef_ofRat]

theorem warpSquare_toReal (p : Exact) : (warpSquare ref.num p).toReal = warpSquare realRef.num p.toReal := by
  simp only [warpSquare, ref_select, ref_add, ref_sub, ref_div, ref_ofRat, realRef_select, realRef_add, realRef_sub,
    realRef_div, realRef_ofRat]

theorem warpPulse_toReal (p : Exact) : (warpPulse ref.num p).toReal = warpPulse realRef.num p.toReal := by
  simp only [warpPulse, ref_select, ref_add, ref_sub, ref_div, ref_ofRat, realRef_select, realRef_add, realRef_sub,
    realRef_div, realRef_ofRat]

theorem warpDsine_toReal (p : Exact) : (warpDsine ref.num p).toReal = warpDsine realRef.num p.toReal := by
  simp only [warpDsine, ref_frac, ref_mul, ref_ofRat, realRef_frac, realRef_mul, realRef_ofRat]

theorem resoPhase_toReal {p : Exact} (h : HasBounds p) (n : Nat) :
    (resoPhase ref.num ref.toTables n p).toReal = resoPhase realRef.num realRef.toTables n p.toReal := by
  have hsine : ∀ {x : Exact}, HasBounds x →
      (sineLookup ref.num ref.toTables x).toReal = sineLookup realRef.num realRef.toTables x.toReal := sineOf_toReal
  have hx : HasBounds (ref.num.frac (letI := ref.num; Exact.rat ((n : ℚ) + 1) * p)) :=
    ((hasBounds_rat _).exactMul h).exactFrac
  simp only [resoPhase, ref_frac, ref_add, ref_mul, realRef_frac, realRef_add, realRef_mul, hsine hx, ref_resoAmp,
    ref_resoMult, realRef_resoAmp, realRef_resoMult, toReal_rat]

theorem hasBounds_warp (w : Wave) {p : Exact} (h : HasBounds p) : HasBounds (warp ref w p) := by
  cases w with
  | saw => exact hasBounds_warpSaw h
  | square => exact hasBounds_warpSquare h
  | pulse => exact hasBounds_warpPulse h
  | dsine => exact hasBounds_warpDsine h
  | reso1 => exact hasBounds_warpSaw (hasBounds_resoPhase h 1)
  | reso2 => exact hasBounds_warpSquare (hasBounds_resoPhase h 2)
  | reso3 => exact hasBounds_warpPulse (hasBounds_resoPhase h 3)

theorem warp_toReal (w : Wave) {p : Exact} (h : HasBounds p) : (warp ref w p).toReal = warp realRef w p.toReal := by
  cases w with
  | saw => exact warpSaw_toReal p
  | square => exact warpSquare_toReal p
  | pulse => exact warpPulse_toReal p
  | dsine => exact warpDsine_toReal p
  | reso1 => exact (warpSaw_toReal _).trans (congrArg _ (resoPhase_toReal h 1))
  | reso2 => exact (warpSquare_toReal _).trans (congrArg _ (resoPhase_toReal h 2))
  | reso3 => exact (warpPulse_toReal _).trans (congrArg _ (resoPhase_toReal h 3))

theorem hasBounds_warpLeft (w : Wave) (x : Exact) : HasBounds (ref.warpLeft ref.toTables w x) := by
  cases w with
  | square => exact HasBounds.exactSelect (hasBounds_rat _) (hasBounds_rat _) _ _
  | pulse => exact HasBounds.exactSelect (hasBounds_rat _) (hasBounds_rat _) _ _
  | _ => exact hasBounds_rat _

theorem warpLeft_toReal (w : Wave) (x : Exact) :
    (ref.warpLeft ref.toTables w x).toReal = realRef.warpLeft realRef.toTables w x.toReal := by
  cases w with
  | square => exact ref_select _ _ _ _
  | pulse => exact ref_select _ _ _ _
  | _ => rfl

/-! ## The oscillator (R145, R153-R158) -/

theorem hasBounds_blendPhase {p f d : Exact} (hp : HasBounds p) (hf : HasBounds f) (hd : HasBounds d) :
    HasBounds (blendPhase ref p f d) :=
  (((hasBounds_rat 1).exactSub hd).exactMul hp).exactAdd (hd.exactMul hf)

@[simp] theorem blendPhase_toReal (p f d : Exact) :
    (blendPhase ref p f d).toReal = blendPhase realRef p.toReal f.toReal d.toReal := by simp [blendPhase]

theorem hasBounds_warpedPhase (w : Wave) {p d : Exact} (hp : HasBounds p) (hd : HasBounds d) :
    HasBounds (warpedPhase ref w p d) := hasBounds_blendPhase hp (hasBounds_warp w hp) hd

theorem warpedPhase_toReal (w : Wave) {p : Exact} (hp : HasBounds p) (d : Exact) :
    (warpedPhase ref w p d).toReal = warpedPhase realRef w p.toReal d.toReal := by
  rw [warpedPhase, blendPhase_toReal, warp_toReal w hp, warpedPhase]

theorem hasBounds_edgeLeft (w : Wave) (x : ℚ) {d : Exact} (hd : HasBounds d) : HasBounds (edgeLeft ref w x d) :=
  hasBounds_blendPhase (hasBounds_rat _) (hasBounds_warpLeft w _) hd

theorem edgeLeft_toReal (w : Wave) (x : ℚ) (d : Exact) : (edgeLeft ref w x d).toReal = edgeLeft realRef w x d.toReal := by
  rw [edgeLeft, blendPhase_toReal, warpLeft_toReal]
  rfl

theorem edgeRight_toReal (w : Wave) (x : ℚ) (d : Exact) :
    (edgeRight ref w x d).toReal = edgeRight realRef w x d.toReal := warpedPhase_toReal w (hasBounds_rat x) d

theorem edgeHeight_toReal (w : Wave) (x : ℚ) {d : Exact} (hd : HasBounds d) :
    (edgeHeight ref w x d).toReal = edgeHeight realRef w x d.toReal := by
  have hright : HasBounds (edgeRight ref w x d) := hasBounds_warpedPhase w (hasBounds_rat x) hd
  rw [edgeHeight, ref_sub, sineOf_toReal hright, sineOf_toReal (hasBounds_edgeLeft w x hd), edgeRight_toReal,
    edgeLeft_toReal]
  rfl

@[simp] theorem polyBlep_toReal (t dt : Exact) : (polyBlep ref t dt).toReal = polyBlep realRef t.toReal dt.toReal := by
  simp [polyBlep]

theorem blep_toReal (w : Wave) (ps dts : Exact) {d : Exact} (hd : HasBounds d) :
    (blep ref w ps dts d).toReal = blep realRef w ps.toReal dts.toReal d.toReal := by
  simp [blep, edgeHeight_toReal _ _ hd, Function.comp_def]

theorem waveSample_toReal (w : Wave) {ps : Exact} (hps : HasBounds ps) (dts : Exact) {d : Exact} (hd : HasBounds d) :
    (waveSample ref w ps dts d).toReal = waveSample realRef w ps.toReal dts.toReal d.toReal := by
  simp [waveSample, sineOf_toReal (hasBounds_warpedPhase w hps hd), warpedPhase_toReal w hps, blep_toReal w ps dts hd]

/-- The sample of an oscillator denotes the real one, for every amount with bounds. -/
theorem oscSample_toReal (b : Bank) (l : Line) (o : Osc) {d : Exact} (hd : HasBounds d) :
    (oscSample ref b l o d).toReal = oscSample realRef b l o d.toReal := waveSample_toReal _ (hasBounds_rat _) _ hd

end Sys2Proof.Machine
end

section
/-! SUPPORT. The two reference configurations run the same envelopes and the same voices (42_envelope.md, 43_voice.md): what a rule
makes of a unit over the exact reals denotes what it makes over ℝ of what the unit denotes. -/

namespace Sys2Proof.Machine

/-! ## The fields of a bank read the same in both configurations -/

@[simp] theorem stageRate_realRef : stageRate realRef = stageRate ref := rfl
@[simp] theorem stageLevel_realRef : stageLevel realRef = stageLevel ref := rfl
@[simp] theorem sustainPoint_realRef : sustainPoint realRef = sustainPoint ref := rfl
@[simp] theorem endPoint_realRef : endPoint realRef = endPoint ref := rfl
@[simp] theorem envInitial_realRef : envInitial realRef = envInitial ref := rfl
@[simp] theorem fastMode_realRef : fastMode realRef = fastMode ref := rfl
@[simp] theorem oscLevel_realRef : oscLevel realRef = oscLevel ref := rfl
@[simp] theorem oscDetune_realRef : oscDetune realRef = oscDetune ref := rfl
@[simp] theorem syncOn_realRef : syncOn realRef = syncOn ref := rfl
@[simp] theorem ringOn_realRef : ringOn realRef = ringOn ref := rfl
@[simp] theorem line2On_realRef : line2On realRef = line2On ref := rfl
@[simp] theorem vsDca_realRef : vsDca realRef = vsDca ref := rfl
@[simp] theorem vsDcw_realRef : vsDcw realRef = vsDcw ref := rfl
@[simp] theorem kfDcw_realRef : kfDcw realRef = kfDcw ref := rfl
@[simp] theorem atDcw_realRef : atDcw realRef = atDcw ref := rfl
@[simp] theorem wheelVib_realRef : wheelVib realRef = wheelVib ref := rfl
@[simp] theorem vibDepth_realRef : vibDepth realRef = vibDepth ref := rfl
@[simp] theorem penvDepth_realRef : penvDepth realRef = penvDepth ref := rfl
@[simp] theorem voiceLimit_realRef : voiceLimit realRef = voiceLimit ref := rfl
@[simp] theorem roundRobinSteal_realRef : roundRobinSteal realRef = roundRobinSteal ref := rfl
@[simp] theorem arpOn_realRef : arpOn realRef = arpOn ref := rfl
@[simp] theorem arpPattern_realRef : arpPattern realRef = arpPattern ref := rfl
@[simp] theorem noteBuffer_realRef : noteBuffer realRef = noteBuffer ref := rfl
@[simp] theorem arpGateFraction_realRef : arpGateFraction realRef = arpGateFraction ref := rfl

/-! ## Ramp lengths (R182, R183) -/

/-- The duration of a rate index is a multiple of a power of 2. -/
theorem rampMs_scaledPow (fast : Bool) (i : Nat) : ∃ c e : ℚ, 0 ≤ c ∧ rampMs ref fast i = scaledPow c e := by
  unfold rampMs
  split
  · refine ⟨2⁻¹ * (1 / 2), (99 - (i : ℚ)) / 6, by norm_num, ?_⟩
    rw [← exactScale_scaledPow]
    rfl
  · exact ⟨1 / 2, (99 - (i : ℚ)) / 6, by norm_num, rfl⟩

theorem rampMs_toReal (fast : Bool) (i : Nat) : (rampMs ref fast i).toReal = rampMs realRef fast i := by
  have hrate : (ref.rateMs i).toReal = realRef.rateMs i := by
    change (exactMul (.rat _) (exactTwoPow (.rat _))).toReal = (_ : ℝ) * (2 : ℝ) ^ _
    rw [exactMul_toReal, exactTwoPow_toReal]
    rfl
  unfold rampMs
  split
  · rw [ref_div, realRef_div, hrate]
    rfl
  · exact hrate

/-- The ramp length in control ticks is the real one: the floor that `rhu` asks for is found. -/
@[simp] theorem rampTicks_realRef (fast : Bool) (i : Nat) : rampTicks realRef fast i = rampTicks ref fast i := by
  obtain ⟨c, e, hc, hform⟩ := rampMs_scaledPow fast i
  have hknown : (exactFloorKnown (exactAdd (exactDiv (exactMul (rampMs ref fast i) (.rat (48000 : Nat)))
      (.rat (1000 * 8 : Nat))) (.rat (1 / 2)))).isSome = true := by
    rw [hform, exactAdd_rat_right, exactMul_rat_right, exactDiv_rat_right, exactScale_scaledPow, exactScale_scaledPow]
    exact exactFloorKnown_addRat_scaledPow _ (by positivity) e
  have hfloor := exactFloor_eq hknown
  rw [exactAdd_toReal, exactDiv_toReal, exactMul_toReal, rampMs_toReal] at hfloor
  exact congrArg (fun n : Int => max 1 n.toNat) hfloor.symm

/-! ## Envelopes (R185-R191) -/

/-- The values of an envelope unit are rationals. -/
structure EnvRat (e : Env Exact) : Prop where
  /-- E_VAL is. -/
  val : IsRat e.val
  /-- E_V0 is. -/
  v0 : IsRat e.v0
  /-- E_TGT is. -/
  tgt : IsRat e.tgt

variable (b : Bank) (t : EnvType) (l : Line)

theorem envArm_map (e : Env Exact) (s : Fin 8) :
    envArm realRef b t l (mapEnv Exact.toReal e) s = mapEnv Exact.toReal (envArm ref b t l e s) := by
  simp [envArm, mapEnv]

theorem envRat_arm (e : Env Exact) (h : IsRat e.val) (s : Fin 8) : EnvRat (envArm ref b t l e s) :=
  ⟨h, h, isRat_rat _⟩

theorem envNoteOn_map (e : Env Exact) :
    envNoteOn realRef b t l (mapEnv Exact.toReal e) = mapEnv Exact.toReal (envNoteOn ref b t l e) :=
  envArm_map b t l { e with stage := 0, active := true, rel := false, hold := false, val := numOf ref (envInitial ref b t l) } 0

theorem envRat_noteOn (e : Env Exact) : EnvRat (envNoteOn ref b t l e) := envRat_arm b t l _ (isRat_rat _) 0

theorem envNoteOff_map (e : Env Exact) :
    envNoteOff realRef b t l (mapEnv Exact.toReal e) = mapEnv Exact.toReal (envNoteOff ref b t l e) := by
  unfold envNoteOff
  rw [apply_ite (mapEnv Exact.toReal), endPoint_realRef]
  exact if_congr Iff.rfl (envArm_map b t l { e with rel := true, hold := false, stage := endPoint ref b t l } _) rfl

theorem envRat_noteOff (e : Env Exact) (h : EnvRat e) : EnvRat (envNoteOff ref b t l e) := by
  unfold envNoteOff
  split
  · exact envRat_arm b t l _ (by exact h.val) _
  · exact h

theorem envComplete_map (e : Env Exact) :
    envComplete realRef b t l (mapEnv Exact.toReal e) = mapEnv Exact.toReal (envComplete ref b t l e) := by
  unfold envComplete
  rw [apply_ite (mapEnv Exact.toReal), apply_ite (mapEnv Exact.toReal), sustainPoint_realRef, endPoint_realRef]
  exact if_congr Iff.rfl rfl (if_congr Iff.rfl rfl (envArm_map b t l { e with stage := e.stage + 1 } _))

theorem envRat_complete (e : Env Exact) (h : EnvRat e) : EnvRat (envComplete ref b t l e) := by
  unfold envComplete
  split
  · exact ⟨h.val, h.v0, h.tgt⟩
  · split
    · exact ⟨h.val, h.v0, h.tgt⟩
    · exact envRat_arm b t l _ (by exact h.val) _

theorem envRamp_map (e : Env Exact) (k : Nat) :
    envRamp realRef (mapEnv Exact.toReal e) k = (envRamp ref e k).toReal := by simp [envRamp, mapEnv]

theorem isRat_envRamp {e : Env Exact} (h : EnvRat e) (k : Nat) : IsRat (envRamp ref e k) :=
  h.v0.exactAdd (((h.tgt.exactSub h.v0).exactMul (isRat_rat _)).exactDiv (isRat_rat _))

theorem envAdvance_map (e : Env Exact) :
    envAdvance realRef b t l (mapEnv Exact.toReal e) = mapEnv Exact.toReal (envAdvance ref b t l e) := by
  unfold envAdvance
  rw [apply_ite (mapEnv Exact.toReal), apply_ite (mapEnv Exact.toReal), envRamp_map]
  exact if_congr Iff.rfl rfl (if_congr Iff.rfl (envComplete_map b t l { e with k := e.k + 1, val := e.tgt }) rfl)

theorem envRat_advance (e : Env Exact) (h : EnvRat e) : EnvRat (envAdvance ref b t l e) := by
  unfold envAdvance
  split
  · exact h
  · split
    · exact envRat_complete b t l _ ⟨h.tgt, h.v0, h.tgt⟩
    · exact ⟨isRat_envRamp h _, h.v0, h.tgt⟩

/-! ## A voice's units -/

/-- The values of a voice are rationals. -/
structure VoiceRat (v : RefVoice) : Prop where
  /-- V_VEL is. -/
  vel : IsRat v.vel
  /-- Those of every envelope unit are. -/
  envs : ∀ t l, EnvRat (voiceEnv v t l)

@[simp] theorem voiceEnv_mapVoice (v : RefVoice) :
    voiceEnv (mapVoice Exact.toReal v) t l = mapEnv Exact.toReal (voiceEnv v t l) := by
  cases t <;> cases l <;> rfl

@[simp] theorem voiceEnv_mapEnvs (f : EnvType → Line → Env Exact → Env Exact) (v : RefVoice) :
    voiceEnv (mapEnvs f v) t l = f t l (voiceEnv v t l) := by
  cases t <;> cases l <;> rfl

/-- A voice with the same velocity and units has rationals too. -/
theorem VoiceRat.of_units {v w : RefVoice} (h : VoiceRat v) (hvel : w.vel = v.vel)
    (henvs : ∀ t l, voiceEnv w t l = voiceEnv v t l) : VoiceRat w where
  vel := hvel ▸ h.vel
  envs t l := henvs t l ▸ h.envs t l

/-- An operation on the six units denotes the real one where the operation on one unit does. -/
theorem mapEnvs_map {f : EnvType → Line → Env Exact → Env Exact} {g : EnvType → Line → Env ℝ → Env ℝ}
    (h : ∀ t l e, g t l (mapEnv Exact.toReal e) = mapEnv Exact.toReal (f t l e)) (v : RefVoice) :
    mapEnvs g (mapVoice Exact.toReal v) = mapVoice Exact.toReal (mapEnvs f v) := by
  simp only [mapEnvs, mapVoice, h]

theorem voiceRat_mapEnvs {f : EnvType → Line → Env Exact → Env Exact} {v : RefVoice} (hvel : IsRat v.vel)
    (h : ∀ t l, EnvRat (f t l (voiceEnv v t l))) : VoiceRat (mapEnvs f v) where
  vel := hvel
  envs t l := by
    rw [voiceEnv_mapEnvs]
    exact h t l

theorem voiceNoteOn_map (time : BitVec 64) (n : Note) (vel : Exact) (v : RefVoice) :
    voiceNoteOn realRef b time n vel.toReal (mapVoice Exact.toReal v) =
      mapVoice Exact.toReal (voiceNoteOn ref b time n vel v) :=
  mapEnvs_map (envNoteOn_map b)
    { v with note := n, vel := vel, stamp := time, rel := false, ctl := 0, osc1 := phaseReset v.osc1
             osc2 := phaseReset v.osc2 }

theorem voiceRat_noteOn (time : BitVec 64) (n : Note) {vel : Exact} (hvel : IsRat vel) (v : RefVoice) :
    VoiceRat (voiceNoteOn ref b time n vel v) := voiceRat_mapEnvs hvel fun t l => envRat_noteOn b t l _

theorem voiceNoteOff_map (v : RefVoice) :
    voiceNoteOff realRef b (mapVoice Exact.toReal v) = mapVoice Exact.toReal (voiceNoteOff ref b v) :=
  mapEnvs_map (envNoteOff_map b) { v with rel := true }

theorem voiceRat_noteOff {v : RefVoice} (h : VoiceRat v) : VoiceRat (voiceNoteOff ref b v) :=
  have hrel : VoiceRat { v with rel := true } := h.of_units rfl fun _ _ => rfl
  voiceRat_mapEnvs hrel.vel fun t l => envRat_noteOff b t l _ (hrel.envs t l)

end Sys2Proof.Machine
end

section
/-! SUPPORT. The two reference configurations render the same voices (43_voice.md R222-R232): from any state whose numbers answer
every question a rule asks, what a render makes denotes what the render over ℝ makes. -/

namespace Sys2Proof.Machine

/-! ## States whose numbers answer every question -/

/-- The numbers of a state have the forms for which every comparison and every floor that a rule asks is found: rationals,
but for the arpeggiator's time and step length, which are linear in the draws. -/
structure Answerable (s : RefEngine) : Prop where
  /-- MODWHEEL is a rational. -/
  modWheel : IsRat s.modWheel
  /-- AFTERTOUCH is. -/
  aftertouch : IsRat s.aftertouch
  /-- PITCHBEND is. -/
  pitchBend : IsRat s.pitchBend
  /-- LFO_IN is. -/
  lfoIn : IsRat s.lfoIn
  /-- The values of every voice are. -/
  voices : ∀ v ∈ s.voices, VoiceRat v
  /-- ARP_ACC is linear in the draws. -/
  arpAcc : isLinear s.arpAcc = true
  /-- ARP_LEN is linear in the draws. -/
  arpLen : isLinear s.arpLen = true
  /-- ARP_BASE is a rational. -/
  arpBase : IsRat s.arpBase

theorem isRat_of_ratWithin {lo hi : ℚ} {x : Exact} (h : ratWithin lo hi x = true) : IsRat x := by
  cases x with
  | rat q => exact isRat_rat q
  | _ => cases h

theorem isRat_of_ratPositive {x : Exact} (h : ratPositive x = true) : IsRat x := by
  cases x with
  | rat q => exact isRat_rat q
  | _ => cases h

theorem envRat_of_envOk {e : Env Exact} (h : EnvOk e) : EnvRat e := by
  obtain ⟨hval, hv0, htgt, -⟩ := h
  exact ⟨isRat_of_ratWithin hval, isRat_of_ratWithin hv0, isRat_of_ratWithin htgt⟩

theorem voiceRat_of_voiceOk {v : RefVoice} (h : VoiceOk v) : VoiceRat v := by
  obtain ⟨hvel, -, henvs⟩ := h
  exact ⟨isRat_of_ratWithin hvel, fun t l => envRat_of_envOk (henvs _ (by cases t <;> cases l <;> simp [voiceEnv]))⟩

/-- Every state in range is answerable. -/
theorem answerable_of_inv {s : RefEngine} (h : Inv s) : Answerable s := by
  obtain ⟨hmod, hafter, hbend, hlfo⟩ := h.latches
  obtain ⟨-, hvoices, -⟩ := h.pool
  obtain ⟨hacc, -, hlen, -, hbase⟩ := h.lengths
  exact
    { modWheel := isRat_of_ratWithin hmod, aftertouch := isRat_of_ratWithin hafter
      pitchBend := isRat_of_ratWithin hbend, lfoIn := isRat_of_ratWithin hlfo
      voices := fun v hv => voiceRat_of_voiceOk (hvoices v hv)
      arpAcc := hacc, arpLen := hlen, arpBase := isRat_of_ratPositive hbase }

/-! ## What a rule reads of the state a reference engine stands for -/

@[simp] theorem realEngine_active (s : RefEngine) : (realEngine s).active = s.active := rfl
@[simp] theorem realEngine_modWheel (s : RefEngine) : (realEngine s).modWheel = s.modWheel.toReal := rfl
@[simp] theorem realEngine_aftertouch (s : RefEngine) : (realEngine s).aftertouch = s.aftertouch.toReal := rfl
@[simp] theorem realEngine_pitchBend (s : RefEngine) : (realEngine s).pitchBend = s.pitchBend.toReal := rfl
@[simp] theorem realEngine_lfoIn (s : RefEngine) : (realEngine s).lfoIn = s.lfoIn.toReal := rfl
@[simp] theorem mapVoice_note (v : RefVoice) : (mapVoice Exact.toReal v).note = v.note := rfl
@[simp] theorem mapVoice_vel (v : RefVoice) : (mapVoice Exact.toReal v).vel = v.vel.toReal := rfl
@[simp] theorem mapEnv_val (e : Env Exact) : (mapEnv Exact.toReal e).val = e.val.toReal := rfl

variable {s : RefEngine} {v : RefVoice} (b : Bank) (l : Line)

/-! ## Pitch (R222, R226) -/

theorem isRat_semitones (hs : Answerable s) (hv : VoiceRat v) : IsRat (semitones ref s v l) :=
  ((((isRat_rat _).exactAdd hs.pitchBend).exactAdd (isRat_rat _)).exactAdd
    ((isRat_rat _).exactMul (hv.envs .pitch l).val)).exactAdd
    (hs.lfoIn.exactMul ((isRat_rat _).exactAdd ((isRat_rat _).exactMul hs.modWheel)))

theorem semitones_map (s : RefEngine) (v : RefVoice) :
    semitones realRef (realEngine s) (mapVoice Exact.toReal v) l = (semitones ref s v l).toReal := by
  simp [semitones]

@[simp] theorem pitchHz_toReal (x : Exact) : (pitchHz ref x).toReal = pitchHz realRef x.toReal := by simp [pitchHz]

theorem voiceFreq_map (s : RefEngine) (v : RefVoice) :
    voiceFreq realRef (realEngine s) (mapVoice Exact.toReal v) l = (voiceFreq ref s v l).toReal := by
  simp [voiceFreq, semitones_map]

/-- A rational pitch has a multiple of a power of 2 as its frequency. -/
theorem pitchHz_scaledPow {x : Exact} (h : IsRat x) : ∃ e, pitchHz ref x = scaledPow 440 e := by
  obtain ⟨q, rfl⟩ := h
  exact ⟨_, rfl⟩

theorem incr_toReal {f : Exact} (h : (exactFloorKnown (incrementArgument f)).isSome = true) :
    incr realRef f.toReal = incr ref f := by
  have hfloor := exactFloor_eq h
  rw [incrementArgument, exactDiv_toReal, exactMul_toReal] at hfloor
  exact congrArg (fun n : Int => BitVec.ofNat 64 (min n.toNat (2 ^ 64 - 1))) hfloor.symm

/-- The increment register of a voice is the real one: the floor that `INCR` asks for is found. -/
theorem voiceIncr_map (hs : Answerable s) (hv : VoiceRat v) :
    incr realRef (voiceFreq realRef (realEngine s) (mapVoice Exact.toReal v) l) = incr ref (voiceFreq ref s v l) := by
  obtain ⟨e, he⟩ := pitchHz_scaledPow (isRat_semitones l hs hv)
  have hknown : (exactFloorKnown (incrementArgument (voiceFreq ref s v l))).isSome = true := by
    rw [voiceFreq, he]
    exact exactFloorKnown_clampedPitch e
  rw [voiceFreq_map, incr_toReal hknown]

/-! ## Amounts and the mix (R227, R228, R230) -/

theorem isRat_dcwAmount (hs : Answerable s) (hv : VoiceRat v) : IsRat (dcwAmount ref s v l) :=
  (IsRat.exactMax ((((hv.envs .dcw l).val.exactMul
    ((isRat_rat _).exactSub ((isRat_rat _).exactMul ((isRat_rat _).exactSub hv.vel)))).exactMul
    ((isRat_rat _).exactSub (isRat_rat _))).exactAdd ((isRat_rat _).exactMul hs.aftertouch)) (isRat_rat _)).exactMin
    (isRat_rat _)

theorem dcwAmount_map (s : RefEngine) (v : RefVoice) :
    dcwAmount realRef (realEngine s) (mapVoice Exact.toReal v) l = (dcwAmount ref s v l).toReal := by
  simp [dcwAmount]

theorem dcaAmount_map (s : RefEngine) (v : RefVoice) :
    dcaAmount realRef (realEngine s) (mapVoice Exact.toReal v) l = (dcaAmount ref s v l).toReal := by
  simp [dcaAmount]

theorem lineSignal_map (s : RefEngine) (v : RefVoice) (y : Exact) :
    lineSignal realRef (realEngine s) (mapVoice Exact.toReal v) l y.toReal = (lineSignal ref s v l y).toReal := by
  simp [lineSignal, dcaAmount_map]

theorem mix_toReal (x y : Exact) : mix realRef b x.toReal y.toReal = (mix ref b x y).toReal := by
  unfold mix
  rw [line2On_realRef, ringOn_realRef]
  split
  · split
    · exact (ref_mul x y).symm
    · exact (ref_add x y).symm
  · rfl

/-! ## Render (R224, R225, R232) -/

theorem voiceState_map (v : RefVoice) : voiceState realRef b (mapVoice Exact.toReal v) = voiceState ref b v := rfl
theorem isFree_map (v : RefVoice) : isFree realRef b (mapVoice Exact.toReal v) = isFree ref b v := rfl
theorem isActive_map (v : RefVoice) : isActive realRef b (mapVoice Exact.toReal v) = isActive ref b v := rfl
theorem isReleasing_map (v : RefVoice) : isReleasing realRef b (mapVoice Exact.toReal v) = isReleasing ref b v := rfl
theorem syncedOsc2_map (v : RefVoice) : syncedOsc2 realRef b (mapVoice Exact.toReal v) = syncedOsc2 ref b v := rfl

theorem renderEnvelopes_map (v : RefVoice) :
    renderEnvelopes realRef b (mapVoice Exact.toReal v) = mapVoice Exact.toReal (renderEnvelopes ref b v) := by
  have henvs : (if (mapVoice Exact.toReal v).ctl = 0 then mapEnvs (envAdvance realRef b) (mapVoice Exact.toReal v)
      else mapVoice Exact.toReal v) = mapVoice Exact.toReal (if v.ctl = 0 then mapEnvs (envAdvance ref b) v else v) := by
    rw [apply_ite (mapVoice Exact.toReal)]
    exact if_congr Iff.rfl (mapEnvs_map (envAdvance_map b) v) rfl
  unfold renderEnvelopes
  rw [henvs]
  rfl

theorem voiceRat_renderEnvelopes (h : VoiceRat v) : VoiceRat (renderEnvelopes ref b v) := by
  have henvs : VoiceRat (if v.ctl = 0 then mapEnvs (envAdvance ref b) v else v) := by
    split
    · exact voiceRat_mapEnvs h.vel fun t l => envRat_advance b t l _ (h.envs t l)
    · exact h
  exact henvs.of_units rfl fun _ _ => rfl

theorem renderPitch_map (hs : Answerable s) (hv : VoiceRat v) :
    renderPitch realRef (realEngine s) (mapVoice Exact.toReal v) = mapVoice Exact.toReal (renderPitch ref s v) := by
  unfold renderPitch
  rw [voiceIncr_map .one hs hv, voiceIncr_map .two hs hv]
  rfl

theorem voiceRat_renderPitch (hv : VoiceRat v) : VoiceRat (renderPitch ref s v) := hv.of_units rfl fun _ _ => rfl

/-- The sample of a line's oscillator in a render. -/
theorem lineSample_map (hs : Answerable s) (hv : VoiceRat v) (o : Osc) :
    oscSample realRef s.active l o (dcwAmount realRef (realEngine s) (mapVoice Exact.toReal v) l) =
      (oscSample ref s.active l o (dcwAmount ref s v l)).toReal := by
  rw [dcwAmount_map, oscSample_toReal s.active l o (isRat_dcwAmount l hs hv).hasBounds]

theorem renderMix_map (hs : Answerable s) (hv : VoiceRat v) :
    renderMix realRef (realEngine s) (mapVoice Exact.toReal v) =
      ((renderMix ref s v).1.toReal, mapVoice Exact.toReal (renderMix ref s v).2) := by
  have hone := lineSample_map .one hs hv v.osc1
  have htwo := lineSample_map .two hs hv (syncedOsc2 ref s.active v)
  refine Prod.ext ?_ rfl
  change mix realRef s.active
      (lineSignal realRef (realEngine s) (mapVoice Exact.toReal v) .one (oscSample realRef s.active .one v.osc1 _))
      (lineSignal realRef (realEngine s) (mapVoice Exact.toReal v) .two
        (oscSample realRef s.active .two (syncedOsc2 ref s.active v) _)) = _
  rw [hone, htwo, lineSignal_map, lineSignal_map, mix_toReal]
  rfl

theorem voiceRat_renderMix (hv : VoiceRat v) : VoiceRat (renderMix ref s v).2 := hv.of_units rfl fun _ _ => rfl

/-- A render denotes the real one: the sample and the voice after it. -/
theorem voiceRender_map (hs : Answerable s) (hv : VoiceRat v) :
    voiceRender realRef (realEngine s) (mapVoice Exact.toReal v) =
      ((voiceRender ref s v).1.toReal, mapVoice Exact.toReal (voiceRender ref s v).2) := by
  have henvs := voiceRat_renderEnvelopes s.active hv
  unfold voiceRender
  rw [realEngine_active, isFree_map, renderEnvelopes_map, renderPitch_map hs henvs,
    renderMix_map hs (voiceRat_renderPitch henvs)]
  split
  · rfl
  · rfl

theorem voiceRat_voiceRender (hv : VoiceRat v) : VoiceRat (voiceRender ref s v).2 := by
  unfold voiceRender
  split
  · exact hv
  · exact voiceRat_renderMix (voiceRat_renderPitch (voiceRat_renderEnvelopes s.active hv))

end Sys2Proof.Machine
end

section
/-! SUPPORT. The simulation: every operation of the engine keeps a state answerable, and what it makes of the state denotes what
the same operation over ℝ makes of what the state denotes (00_scope.md R6, R9, R11). -/

namespace Sys2Proof.Machine

/-! ## Lists under a map -/

theorem map_modify {α β : Type} {f : α → β} {g : β → β} {h : α → α} (hgh : ∀ a, g (f a) = f (h a)) (xs : List α)
    (i : Nat) : (xs.map f).modify i g = (xs.modify i h).map f := by
  induction xs generalizing i with
  | nil => simp
  | cons x xs ih =>
    cases i with
    | zero => simp [hgh]
    | succ i => simp [ih]

theorem forall_mem_modify {α : Type} {p : α → Prop} {f : α → α} {xs : List α} (h : ∀ x ∈ xs, p x)
    (hf : ∀ x, p x → p (f x)) (i : Nat) : ∀ x ∈ xs.modify i f, p x := by
  intro x hx
  obtain ⟨j, hj⟩ := List.mem_iff_getElem?.1 hx
  rw [List.getElem?_modify] at hj
  obtain ⟨y, hy, rfl⟩ := Option.map_eq_some_iff.1 hj
  have hpy := h y (List.mem_of_getElem? hy)
  split
  · exact hf y hpy
  · exact hpy

/-! ## The relation -/

/-- `f` keeps states answerable, and what it makes of one denotes what `g` makes of what the state denotes. -/
def Simulates (f : RefEngine → RefEngine) (g : Engine ℝ Config.PostState → Engine ℝ Config.PostState) : Prop :=
  ∀ s, Answerable s → Answerable (f s) ∧ realEngine (f s) = g (realEngine s)

theorem simulates_id : Simulates id id := fun _ h => ⟨h, rfl⟩

/-- One operation after another. -/
theorem Simulates.comp {f f' : RefEngine → RefEngine} {g g' : Engine ℝ Config.PostState → Engine ℝ Config.PostState}
    (h : Simulates f g) (h' : Simulates f' g') : Simulates (fun s => f' (f s)) (fun s => g' (g s)) := by
  intro s hs
  obtain ⟨h1, e1⟩ := h s hs
  obtain ⟨h2, e2⟩ := h' (f s) h1
  exact ⟨h2, e2.trans (congrArg g' e1)⟩

/-- One operation or the other, by a question that both configurations answer alike. -/
theorem Simulates.cond {f f' : RefEngine → RefEngine} {g g' : Engine ℝ Config.PostState → Engine ℝ Config.PostState}
    {c : RefEngine → Bool} {c' : Engine ℝ Config.PostState → Bool}
    (hc : ∀ s, Answerable s → c' (realEngine s) = c s) (h : Simulates f g) (h' : Simulates f' g') :
    Simulates (fun s => if c s then f s else f' s) (fun s => if c' s then g s else g' s) := by
  intro s hs
  simp only [hc s hs]
  split
  · exact h s hs
  · exact h' s hs

/-! ## The allocator (R262-R268) -/

@[simp] theorem realEngine_voices (s : RefEngine) : (realEngine s).voices = s.voices.map (mapVoice Exact.toReal) := rfl

theorem retriggerSlot_map (s : RefEngine) (n : Note) : retriggerSlot realRef (realEngine s) n = retriggerSlot ref s n := by
  rw [retriggerSlot, realEngine_voices, List.findIdx?_map]
  rfl

theorem limitedVoices_map (s : RefEngine) :
    limitedVoices realRef (realEngine s) = (limitedVoices ref s).map (mapVoice Exact.toReal) := List.map_take.symm

theorem freeSlot_map (s : RefEngine) : freeSlot realRef (realEngine s) = freeSlot ref s := by
  rw [freeSlot, limitedVoices_map, List.findIdx?_map]
  rfl

theorem oldestSlot_map (s : RefEngine) : oldestSlot realRef (realEngine s) = oldestSlot ref s := by
  rw [oldestSlot, limitedVoices_map, leastStamp, List.foldl_map, List.findIdx_map]
  rfl

theorem stealSelect_map (s : RefEngine) :
    stealSelect realRef (realEngine s) = ((stealSelect ref s).1, realEngine (stealSelect ref s).2) := by
  have hreleasing : (limitedVoices realRef (realEngine s)).findIdx? (isReleasing realRef (realEngine s).active) =
      (limitedVoices ref s).findIdx? (isReleasing ref s.active) := by
    rw [limitedVoices_map, List.findIdx?_map]
    rfl
  unfold stealSelect
  rw [hreleasing, oldestSlot_map, roundRobinSteal_realRef, realEngine_active]
  split
  · split <;> rfl
  · rfl

theorem allocSelect_map (s : RefEngine) (n : Note) :
    allocSelect realRef (realEngine s) n = ((allocSelect ref s n).1, realEngine (allocSelect ref s n).2) := by
  unfold allocSelect
  rw [retriggerSlot_map, freeSlot_map, stealSelect_map]
  split
  · rfl
  · split <;> rfl

/-- `Alloc.noteOn` of a rational velocity. -/
theorem allocNoteOn_simulates (n : Note) {vel : Exact} (hvel : IsRat vel) :
    Simulates (fun s => allocNoteOn ref s n vel) (fun s => allocNoteOn realRef s n vel.toReal) := by
  intro s hs
  simp only [allocNoteOn_frame, allocSelect_map]
  refine ⟨{ hs with voices := ?_ }, ?_⟩
  · exact forall_mem_modify hs.voices (fun v _ => voiceRat_noteOn s.active s.time n hvel v) _
  · have hvoices := map_modify (voiceNoteOn_map s.active s.time n vel) s.voices (allocSelect ref s n).1
    simp only [realEngine, mapEngine, List.map_append] at hvoices ⊢
    rw [hvoices]
    rfl

theorem noteOffSlot_map (s : RefEngine) (n : Note) : noteOffSlot realRef (realEngine s) n = noteOffSlot ref s n := by
  rw [noteOffSlot, realEngine_voices, List.findIdx?_map]
  rfl

theorem releaseSlot_simulates (i : Nat) : Simulates (fun s => releaseSlot ref s i) (fun s => releaseSlot realRef s i) := by
  intro s hs
  refine ⟨{ hs with voices := ?_ }, ?_⟩
  · exact forall_mem_modify hs.voices (fun v hv => voiceRat_noteOff s.active hv) i
  · have hvoices := map_modify (voiceNoteOff_map s.active) s.voices i
    simp only [realEngine, mapEngine, releaseSlot] at hvoices ⊢
    rw [hvoices]

theorem receiveEvent_simulates (e : AllocEvent Exact) :
    Simulates (fun s => receiveEvent s e) (fun s => receiveEvent s (mapEvent Exact.toReal e)) := by
  refine fun s hs => ⟨{ hs with }, ?_⟩
  simp only [realEngine, mapEngine, receiveEvent, List.map_append]
  rfl

theorem releaseNote_simulates (n : Note) : Simulates (fun s => releaseNote ref s n) (fun s => releaseNote realRef s n) := by
  intro s hs
  simp only [releaseNote, noteOffSlot_map]
  split
  · exact releaseSlot_simulates _ s hs
  · exact ⟨hs, rfl⟩

/-- `Alloc.noteOff`. -/
theorem allocNoteOff_simulates (n : Note) : Simulates (fun s => allocNoteOff ref s n) (fun s => allocNoteOff realRef s n) :=
  (releaseNote_simulates n).comp (receiveEvent_simulates (.noteOff n))

theorem releaseActive_simulates : Simulates (releaseActive ref) (releaseActive realRef) := by
  intro s hs
  refine ⟨{ hs with voices := ?_ }, ?_⟩
  · intro v hv
    obtain ⟨w, hw, rfl⟩ := List.mem_map.1 hv
    split
    · exact voiceRat_noteOff s.active (hs.voices w hw)
    · exact hs.voices w hw
  · have hvoice : ∀ v : RefVoice,
        mapVoice Exact.toReal (if isActive ref s.active v then voiceNoteOff ref s.active v else v) =
        if isActive realRef s.active (mapVoice Exact.toReal v) then voiceNoteOff realRef s.active (mapVoice Exact.toReal v)
        else mapVoice Exact.toReal v := by
      intro v
      rw [apply_ite (mapVoice Exact.toReal), ← voiceNoteOff_map]
      rfl
    have hvoices : (releaseActive ref s).voices.map (mapVoice Exact.toReal) =
        (releaseActive realRef (realEngine s)).voices := by
      rw [releaseActive_voices, releaseActive_voices, realEngine_voices, List.map_map, List.map_map]
      exact List.map_congr_left fun v _ => hvoice v
    exact congrArg (fun vs => { realEngine s with voices := vs }) hvoices

/-! ## The arpeggiator (R341-R363) -/

theorem isLinear_exactMax {x y : Exact} (hx : isLinear x = true) (hy : isLinear y = true) :
    isLinear (exactMax x y) = true := by
  rcases exactMax_cases (exactSign_linear (isLinear_exactSub hx hy)) with h | h
  · rw [h]
    exact hx
  · rw [h]
    exact hy

theorem isLinear_exactMin {x y : Exact} (hx : isLinear x = true) (hy : isLinear y = true) :
    isLinear (exactMin x y) = true := by
  rcases exactMin_cases x y with h | h | ⟨h, -⟩
  · rw [h]
    exact hx
  · rw [h]
    exact hy
  · have hsome := exactSign_linear (isLinear_exactSub hy hx)
    rw [h] at hsome
    cases hsome

theorem isLinear_exactMul {x y : Exact} (hx : IsRat x) (hy : isLinear y = true) : isLinear (exactMul x y) = true := by
  obtain ⟨q, rfl⟩ := hx
  exact isLinear_scale hy q

theorem isRat_swingFactor (b : Bank) (k : Nat) : IsRat (swingFactor ref b k) := by
  have hswing : IsRat (arpSwing ref b) := (isRat_rat _).exactMin (isRat_rat _)
  unfold swingFactor
  split
  · exact (isRat_rat _).exactAdd (hswing.exactDiv (isRat_rat _))
  · exact (isRat_rat _).exactSub (hswing.exactDiv (isRat_rat _))

theorem isLinear_jitterFactor (b : Bank) (draws : Nat) : isLinear (jitterFactor ref b draws) = true := by
  have hdraw : isLinear (drawJitter ref draws) = true :=
    isLinear_exactMin (isLinear_exactMax (isLinear_draw draws) (isLinear_rat _)) (isLinear_rat _)
  exact isLinear_exactAdd (isLinear_rat _) (isLinear_exactMul ((isRat_rat _).exactMul (isRat_rat _)) hdraw)

/-- A step length is linear in the draws. -/
theorem isLinear_stepLength {s : RefEngine} (hs : Answerable s) (k : Nat) : isLinear (stepLength ref s k) = true :=
  isLinear_exactMul (hs.arpBase.exactMul (isRat_swingFactor s.active k)) (isLinear_jitterFactor s.active s.draws)

theorem arpSwing_toReal (b : Bank) : (arpSwing ref b).toReal = arpSwing realRef b := ref_min _ _
theorem arpJitter_toReal (b : Bank) : (arpJitter ref b).toReal = arpJitter realRef b := ref_mul _ _

theorem swingFactor_toReal (b : Bank) (k : Nat) : (swingFactor ref b k).toReal = swingFactor realRef b k := by
  unfold swingFactor
  split <;> simp [arpSwing_toReal]

theorem jitterFactor_toReal (b : Bank) (draws : Nat) : (jitterFactor ref b draws).toReal = jitterFactor realRef b draws := by
  simp [jitterFactor, arpJitter_toReal, drawJitter]

theorem stepLength_map (s : RefEngine) (k : Nat) : stepLength realRef (realEngine s) k = (stepLength ref s k).toReal := by
  rw [stepLength, stepLength, ref_mul, ref_mul, swingFactor_toReal, jitterFactor_toReal]
  rfl

theorem startLength_simulates : Simulates (startLength ref) (startLength realRef) := by
  refine fun s hs => ⟨{ hs with arpLen := isLinear_stepLength hs _ }, ?_⟩
  exact congrArg (fun len => { realEngine s with arpLen := len, draws := s.draws + 1 }) (stepLength_map s s.arpStep).symm

theorem selectStep_map (s : RefEngine) (len : Nat) :
    selectStep realRef (realEngine s) len = ((selectStep ref s len).1, realEngine (selectStep ref s len).2) := by
  unfold selectStep
  rw [arpPattern_realRef, realEngine_active]
  split <;> rfl

/-- The note that ARP_FIRE plays next (R345). -/
def nextNote {N Post : Type} (P : Config.Params N Post) (s : Engine N Post) : Note :=
  (noteBuffer P s.active s.held).getD (selectStep P s (noteBuffer P s.active s.held).length).1 0

theorem nextNote_map (s : RefEngine) : nextNote realRef (realEngine s) = nextNote ref s := by
  rw [nextNote, nextNote, noteBuffer_realRef, selectStep_map]
  rfl

/-- SELECT among `len` notes, with the note chosen as ARP_NOTE. -/
theorem select_simulates (len : Nat) (note : Note) :
    Simulates (fun s => { (selectStep ref s len).2 with arpNote := note })
      (fun s => { (selectStep realRef s len).2 with arpNote := note }) := by
  intro s hs
  simp only [selectStep_map]
  refine ⟨?_, rfl⟩
  rw [selectStep_frame]
  exact { hs with }

theorem openGate_simulates : Simulates (fun s => { s with arpGateOpen := true }) (fun s => { s with arpGateOpen := true }) :=
  fun _ hs => ⟨{ hs with }, rfl⟩

/-- `ARP_FIRE()`. -/
theorem arpFire_simulates : Simulates (arpFire ref) (arpFire realRef) := by
  intro s hs
  obtain ⟨hfire, efire⟩ := ((select_simulates (noteBuffer ref s.active s.held).length (nextNote ref s)).comp
    (allocNoteOn_simulates (nextNote ref s) (isRat_rat 1))).comp openGate_simulates s hs
  refine ⟨hfire, efire.trans ?_⟩
  rw [← nextNote_map]
  rfl

theorem arpGateClose_simulates : Simulates (arpGateClose ref) (arpGateClose realRef) := by
  intro s hs
  have h := allocNoteOff_simulates s.arpNote s hs
  unfold arpGateClose
  rw [show (realEngine s).arpGateOpen = s.arpGateOpen from rfl]
  split
  · exact ⟨{ h.1 with }, congrArg (fun t => { t with arpGateOpen := false }) h.2⟩
  · exact ⟨hs, rfl⟩

theorem arpStop_simulates : Simulates (arpStop ref) (arpStop realRef) :=
  arpGateClose_simulates.comp (f' := fun s => { s with arpRun := false }) (g' := fun s => { s with arpRun := false })
    fun _ hs => ⟨{ hs with }, rfl⟩

theorem stepOver_map {s : RefEngine} (hs : Answerable s) : stepOver realRef (realEngine s) = stepOver ref s := by
  rw [Bool.eq_iff_iff]
  exact (realRef_le _ _).trans (exactLe_iff hs.arpLen hs.arpAcc).symm

theorem gateOver_map {s : RefEngine} (hs : Answerable s) : gateOver realRef (realEngine s) = gateOver ref s := by
  have hpart : isLinear (exactMul (.rat (arpGateFraction ref s.active)) s.arpLen) = true :=
    isLinear_exactMul (isRat_rat _) hs.arpLen
  have hiff := exactLe_iff hpart hs.arpAcc
  rw [exactMul_toReal] at hiff
  rw [Bool.eq_iff_iff]
  exact (realRef_le _ _).trans hiff.symm

/-- ARP_ACC less the length of the step that ended (R347). -/
theorem takeLength_simulates :
    Simulates (fun s => { s with arpAcc := letI := ref.num; s.arpAcc - s.arpLen })
      (fun s => { s with arpAcc := letI := realRef.num; s.arpAcc - s.arpLen }) :=
  fun s hs => ⟨{ hs with arpAcc := isLinear_exactSub hs.arpAcc hs.arpLen },
    congrArg (fun x => { realEngine s with arpAcc := x }) (ref_sub s.arpAcc s.arpLen)⟩

theorem nextStep_simulates :
    Simulates (fun s => { s with arpStep := s.arpStep + 1 }) (fun s => { s with arpStep := s.arpStep + 1 }) :=
  fun _ hs => ⟨{ hs with }, rfl⟩

/-- ARP_ACC counts the sample (R347). -/
theorem countSample_simulates :
    Simulates (fun s => { s with arpAcc := letI := ref.num; s.arpAcc + numOf ref 1 })
      (fun s => { s with arpAcc := letI := realRef.num; s.arpAcc + numOf realRef 1 }) :=
  fun s hs => ⟨{ hs with arpAcc := isLinear_exactAdd hs.arpAcc (isLinear_rat 1) },
    congrArg (fun x => { realEngine s with arpAcc := x }) (ref_add s.arpAcc (numOf ref 1))⟩

theorem arpStepEnd_simulates : Simulates (arpStepEnd ref) (arpStepEnd realRef) :=
  Simulates.cond (fun _ hs => stepOver_map hs)
    ((((takeLength_simulates.comp arpGateClose_simulates).comp nextStep_simulates).comp startLength_simulates).comp
      arpFire_simulates) simulates_id

theorem arpGateEnd_simulates : Simulates (arpGateEnd ref) (arpGateEnd realRef) :=
  Simulates.cond (c := fun s => s.arpGateOpen && decide (arpGateFraction ref s.active < 1) && gateOver ref s)
    (c' := fun s => s.arpGateOpen && decide (arpGateFraction realRef s.active < 1) && gateOver realRef s)
    (fun _ hs => congrArg (_ && ·) (gateOver_map hs)) arpGateClose_simulates simulates_id

/-- `ARP_TICK()`. -/
theorem arpTick_simulates : Simulates (arpTick ref) (arpTick realRef) :=
  Simulates.cond (fun _ _ => rfl) ((arpStepEnd_simulates.comp arpGateEnd_simulates).comp countSample_simulates) simulates_id

theorem arpStart_simulates : Simulates (arpStart ref) (arpStart realRef) := by
  have hstart : Simulates
      (fun s => { s with arpRun := true, arpAcc := numOf ref 0, arpStep := 0, arpIdx := 0, arpDir := .plus })
      (fun s => { s with arpRun := true, arpAcc := numOf realRef 0, arpStep := 0, arpIdx := 0, arpDir := .plus }) :=
    fun _ hs => ⟨{ hs with arpAcc := isLinear_rat 0 }, rfl⟩
  exact (hstart.comp startLength_simulates).comp arpFire_simulates

/-- `ARP_KEY_DOWN(n)`. -/
theorem arpKeyDown_simulates (n : Note) : Simulates (fun s => arpKeyDown ref s n) (fun s => arpKeyDown realRef s n) := by
  have hhold : Simulates (fun s => { s with held := s.held ++ [n] }) (fun s => { s with held := s.held ++ [n] }) :=
    fun _ hs => ⟨{ hs with }, rfl⟩
  exact Simulates.cond (c := fun s => s.held.contains n || decide (s.held.length = ref.heldMax))
    (c' := fun s => s.held.contains n || decide (s.held.length = realRef.heldMax)) (fun _ _ => rfl) simulates_id
    (Simulates.cond (c := fun s => s.held.isEmpty) (c' := fun s => s.held.isEmpty) (fun _ _ => rfl)
      (hhold.comp arpStart_simulates) hhold)

/-- `ARP_KEY_UP(n)`. -/
theorem arpKeyUp_simulates (n : Note) : Simulates (fun s => arpKeyUp ref s n) (fun s => arpKeyUp realRef s n) := by
  have hdrop : Simulates (fun s => { s with held := s.held.filter fun x => x != n })
      (fun s => { s with held := s.held.filter fun x => x != n }) := fun _ hs => ⟨{ hs with }, rfl⟩
  exact Simulates.cond (c := fun s => s.held.contains n) (c' := fun s => s.held.contains n) (fun _ _ => rfl)
    (hdrop.comp (Simulates.cond (c := fun s => s.held.isEmpty) (c' := fun s => s.held.isEmpty) (fun _ _ => rfl)
      arpStop_simulates simulates_id)) simulates_id

theorem arpDisable_simulates : Simulates (arpDisable ref) (arpDisable realRef) :=
  arpStop_simulates.comp (f' := fun s => { s with held := [] }) (g' := fun s => { s with held := [] })
    fun _ hs => ⟨{ hs with }, rfl⟩

theorem arpClear_simulates : Simulates arpClear arpClear := fun _ hs => ⟨{ hs with }, rfl⟩

end Sys2Proof.Machine
end

section
/-! SUPPORT. The simulation of the commands, the block boundary, the sample step and every instruction, and so of whole runs
(45_protocol.md R300-R305, 47_sample_clock.md R390-R393). -/

namespace Sys2Proof.Machine

/-! ## Command records (R305) -/

theorem writeActive_simulates (r : Reg) (w : ParamWord) :
    Simulates (fun s => writeActive ref s r w) (fun s => writeActive realRef s r w) := fun _ hs => ⟨{ hs with }, rfl⟩

theorem applyStage_simulates (t : EnvType) (line : BitVec 2) (index : BitVec 4) (rate level : Code) :
    Simulates (applyStage ref t line index rate level) (applyStage realRef t line index rate level) := by
  intro s hs
  unfold applyStage
  split
  · exact simulates_id s hs
  · split
    · exact writeActive_simulates _ _ s hs
    · exact simulates_id s hs

theorem applySustain_simulates (t : EnvType) (line : BitVec 2) (index : BitVec 4) :
    Simulates (applySustain ref t line index) (applySustain realRef t line index) := by
  intro s hs
  unfold applySustain
  split
  · exact simulates_id s hs
  · split
    · exact writeActive_simulates _ _ s hs
    · exact simulates_id s hs

theorem applyEnd_simulates (t : EnvType) (line : BitVec 2) (index : BitVec 4) :
    Simulates (applyEnd ref t line index) (applyEnd realRef t line index) := by
  intro s hs
  unfold applyEnd
  split
  · exact simulates_id s hs
  · split
    · exact writeActive_simulates _ _ s hs
    · exact simulates_id s hs

/-- `APPLY(rec)`. -/
theorem applyRecord_simulates (r : Rec) : Simulates (applyRecord ref r) (applyRecord realRef r) := by
  intro s hs
  unfold applyRecord
  split
  · exact applyStage_simulates _ _ _ _ _ s hs
  · exact applyStage_simulates _ _ _ _ _ s hs
  · exact applyStage_simulates _ _ _ _ _ s hs
  · exact applySustain_simulates _ _ _ s hs
  · exact applySustain_simulates _ _ _ s hs
  · exact applySustain_simulates _ _ _ s hs
  · exact applyEnd_simulates _ _ _ s hs
  · exact applyEnd_simulates _ _ _ s hs
  · exact applyEnd_simulates _ _ _ s hs
  · exact simulates_id s hs

/-! ## The host's operations (R300-R302) -/

theorem writeShadow_simulates (a : ParamAddr) (d : ParamWord) :
    Simulates (writeShadow ref a d) (writeShadow realRef a d) := by
  intro s hs
  unfold writeShadow
  split
  · exact ⟨hs, rfl⟩
  · exact ⟨{ hs with }, rfl⟩

theorem publish_simulates : Simulates publish publish := fun _ hs => ⟨{ hs with }, rfl⟩

theorem pushRecord_simulates (r : Rec) : Simulates (pushRecord ref r) (pushRecord realRef r) := by
  have hpush : Simulates (fun s => { s with cmdq := s.cmdq ++ [r] }) (fun s => { s with cmdq := s.cmdq ++ [r] }) :=
    fun _ hs => ⟨{ hs with }, rfl⟩
  intro s hs
  unfold pushRecord
  rw [show (realEngine s).cmdq = s.cmdq from rfl, ref_cmdqCap, realRef_cmdqCap]
  split
  · exact hpush s hs
  · exact simulates_id s hs

/-! ## The block boundary (R303, R304, R392) -/

theorem install_simulates : Simulates (install ref) (install realRef) := by
  have hinstall : Simulates (fun s => { s with active := s.pending, pendingValid := false })
      (fun s => { s with active := s.pending, pendingValid := false }) := fun _ hs => ⟨{ hs with }, rfl⟩
  exact Simulates.cond (c := fun s => s.pendingValid) (c' := fun s => s.pendingValid) (fun _ _ => rfl)
    (Simulates.cond (c := fun s => arpOn ref s.active && !arpOn ref s.pending)
      (c' := fun s => arpOn realRef s.active && !arpOn realRef s.pending) (fun _ _ => rfl)
      (hinstall.comp arpDisable_simulates) hinstall) simulates_id

theorem applyRecords_simulates (rs : List Rec) :
    Simulates (fun s => rs.foldl (fun s r => applyRecord ref r s) s)
      (fun s => rs.foldl (fun s r => applyRecord realRef r s) s) := by
  induction rs with
  | nil => exact simulates_id
  | cons r rs ih => exact (applyRecord_simulates r).comp ih

theorem drain_simulates : Simulates (drain ref) (drain realRef) := by
  have hempty : Simulates (fun s => { s with cmdq := [] }) (fun s => { s with cmdq := [] }) :=
    fun _ hs => ⟨{ hs with }, rfl⟩
  exact fun s hs => hempty.comp (applyRecords_simulates s.cmdq) s hs

theorem updateBase_simulates : Simulates (updateBase ref) (updateBase realRef) :=
  fun _ hs => ⟨{ hs with arpBase := isRat_rat _ }, rfl⟩

/-- `BLOCK_BOUNDARY()`. -/
theorem blockBoundary_simulates : Simulates (blockBoundary ref) (blockBoundary realRef) :=
  (install_simulates.comp drain_simulates).comp updateBase_simulates

/-! ## The sample step (R390-R393) -/

theorem renderVoices_simulates : Simulates (renderVoices ref) (renderVoices realRef) := by
  intro s hs
  refine ⟨{ hs with voices := ?_ }, ?_⟩
  · intro v hv
    rw [renderVoices_voices, List.map_map] at hv
    obtain ⟨w, hw, rfl⟩ := List.mem_map.1 hv
    exact voiceRat_voiceRender (hs.voices w hw)
  · have hrendered : (realEngine s).voices.map (voiceRender realRef (realEngine s)) =
        (s.voices.map (voiceRender ref s)).map fun r => (r.1.toReal, mapVoice Exact.toReal r.2) := by
      rw [realEngine_voices, List.map_map, List.map_map]
      exact List.map_congr_left fun v hv => voiceRender_map hs (hs.voices v hv)
    have hout : numSum realRef (((realEngine s).voices.map (voiceRender realRef (realEngine s))).map Prod.fst) =
        (numSum ref ((s.voices.map (voiceRender ref s)).map Prod.fst)).toReal := by
      simp only [hrendered, numSum_toReal, List.map_map, Function.comp_def]
    have hvoices : ((realEngine s).voices.map (voiceRender realRef (realEngine s))).map Prod.snd =
        ((s.voices.map (voiceRender ref s)).map Prod.snd).map (mapVoice Exact.toReal) := by
      simp only [hrendered, List.map_map, Function.comp_def]
    exact (congrArg₂ (fun out vs => { realEngine s with voices := vs, outL := out, outR := out }) hout hvoices).symm

theorem advanceTime_simulates : Simulates advanceTime advanceTime := fun _ hs => ⟨{ hs with }, rfl⟩

/-- `SAMPLE_STEP()`. -/
theorem sampleStep_simulates : Simulates (sampleStep ref) (sampleStep realRef) := by
  have hboundary : Simulates (fun s => if atBoundary ref s then blockBoundary ref s else s)
      (fun s => if atBoundary realRef s then blockBoundary realRef s else s) :=
    Simulates.cond (c := atBoundary ref) (c' := atBoundary realRef) (fun _ _ => rfl) blockBoundary_simulates simulates_id
  exact ((hboundary.comp arpTick_simulates).comp renderVoices_simulates).comp advanceTime_simulates

theorem sampleSteps_simulates (n : Nat) : Simulates (sampleSteps ref n) (sampleSteps realRef n) := by
  induction n with
  | zero => exact simulates_id
  | succ n ih => exact sampleStep_simulates.comp ih

/-! ## Every instruction -/

theorem keyDown_simulates (n : Note) (vel : Code) : Simulates (keyDown ref n vel) (keyDown realRef n vel) :=
  Simulates.cond (c := fun s => arpOn ref s.active) (c' := fun s => arpOn realRef s.active) (fun _ _ => rfl)
    (arpKeyDown_simulates n) (allocNoteOn_simulates n (isRat_rat (uq15 vel)))

theorem keyUp_simulates (n : Note) : Simulates (keyUp ref n) (keyUp realRef n) :=
  Simulates.cond (c := fun s => arpOn ref s.active) (c' := fun s => arpOn realRef s.active) (fun _ _ => rfl)
    (arpKeyUp_simulates n) (allocNoteOff_simulates n)

/-- The effect of every instruction on the configuration that runs denotes its effect on the block over ℝ. -/
theorem engineExec_simulates (i : Instr) : Simulates (engineExec ref i) (engineExec realRef i) := by
  cases i with
  | noteOn note vel => exact keyDown_simulates note vel
  | noteOff note => exact keyUp_simulates note
  | allNotesOff => exact arpClear_simulates.comp releaseActive_simulates
  | setModwheel val => exact fun _ hs => ⟨{ hs with modWheel := isRat_rat _ }, rfl⟩
  | setAftertouch val => exact fun _ hs => ⟨{ hs with aftertouch := isRat_rat _ }, rfl⟩
  | setPitchbend val => exact fun _ hs => ⟨{ hs with pitchBend := isRat_rat _ }, rfl⟩
  | setLfo val => exact fun _ hs => ⟨{ hs with lfoIn := isRat_rat _ }, rfl⟩
  | paramWrite addr data => exact writeShadow_simulates addr data
  | snapPublish => exact publish_simulates
  | cmdPush record => exact pushRecord_simulates record
  | tick count => exact sampleSteps_simulates count.toNat
  | dcwStage line index rate level => exact applyStage_simulates .dcw line index rate level
  | dcaStage line index rate level => exact applyStage_simulates .dca line index rate level
  | pitchStage line index rate level => exact applyStage_simulates .pitch line index rate level
  | dcwSustain line index => exact applySustain_simulates .dcw line index
  | dcaSustain line index => exact applySustain_simulates .dca line index
  | pitchSustain line index => exact applySustain_simulates .pitch line index
  | dcwEnd line index => exact applyEnd_simulates .dcw line index
  | dcaEnd line index => exact applyEnd_simulates .dca line index
  | pitchEnd line index => exact applyEnd_simulates .pitch line index
  | _ => exact simulates_id

/-- `exec` is the effect that every engine gives the instruction, on the configuration that runs. -/
theorem exec_eq_engineExec (i : Instr) (s : State) : exec i s = .next (s.onEngine (engineExec ref i)) := by
  cases i <;> rfl

/-! ## Runs -/

theorem voiceRat_reset : VoiceRat (Voice.reset ref) where
  vel := isRat_rat 0
  envs t l := by cases t <;> cases l <;> exact ⟨isRat_rat 0, isRat_rat 0, isRat_rat 0⟩

/-- Power-on leaves an answerable state that denotes the real block's. -/
theorem reset_simulates : Answerable (Engine.reset ref) ∧ realEngine (Engine.reset ref) = Engine.reset realRef := by
  refine ⟨?_, ?_⟩
  · exact
      { modWheel := isRat_rat 0, aftertouch := isRat_rat 0, pitchBend := isRat_rat 0, lfoIn := isRat_rat 0
        voices := fun v hv => List.eq_of_mem_replicate hv ▸ voiceRat_reset
        arpAcc := isLinear_rat 0, arpLen := isLinear_rat _, arpBase := isRat_rat _ }
  · rfl

theorem program_simulates (program : List OpWord) :
    Simulates (fun s => program.foldl (fun s w => engineExec ref (decodeWord w) s) s)
      (fun s => program.foldl (fun s w => engineExec realRef (decodeWord w) s) s) := by
  induction program with
  | nil => exact simulates_id
  | cons w program ih => exact (engineExec_simulates (decodeWord w)).comp ih

/-- The run of every program from power-on denotes the real block's run. -/
theorem engineRun_map (program : List OpWord) : realEngine (engineRun ref program) = engineRun realRef program := by
  obtain ⟨hreset, ereset⟩ := reset_simulates
  rw [engineRun, engineRun, (program_simulates program _ hreset).2, ereset]

/-- Settles O57: every state in range is answerable, and from an answerable state every instruction simulates the one over ℝ. -/
theorem runsAsTheRealBlock : Obligations.RunsAsTheRealBlock :=
  ⟨exec_eq_engineExec, fun i s hs => (engineExec_simulates i s (answerable_of_inv hs)).2, engineRun_map⟩

end Sys2Proof.Machine
end

section
/-! SUPPORT. Legal words: what LEGAL stores is legal, so is every reset word, and so is every word that a bank of legal words holds
(10_state.md R31, R58; 45_protocol.md R306). -/

namespace Sys2Proof.Machine

/-! ## The clamps on codes -/

/-- A code capped twice is capped once. -/
theorem capTo_capTo {n : Nat} (c k : BitVec n) : capTo (capTo c k) k = capTo c k := by
  unfold capTo
  by_cases h : c.toNat ≤ k.toNat <;> simp [h]

/-- A clamped code lies within the bounds. -/
theorem clampCode_bounds {n : Nat} (c : BitVec n) {lo hi : BitVec n} (h : lo.toNat ≤ hi.toNat) :
    lo.toNat ≤ (clampCode c lo hi).toNat ∧ (clampCode c lo hi).toNat ≤ hi.toNat := by
  unfold clampCode
  split
  · omega
  · split <;> omega

/-- A code within the bounds is left as it is. -/
theorem clampCode_eq_self {n : Nat} {c lo hi : BitVec n} (h : lo.toNat ≤ c.toNat ∧ c.toNat ≤ hi.toNat) :
    clampCode c lo hi = c := by
  rw [clampCode, if_neg (by omega), if_neg (by omega)]

theorem clampCode_clampCode {n : Nat} (c : BitVec n) {lo hi : BitVec n} (h : lo.toNat ≤ hi.toNat) :
    clampCode (clampCode c lo hi) lo hi = clampCode c lo hi := clampCode_eq_self (clampCode_bounds c h)

/-! ## What LEGAL stores is legal -/

variable {pool : Nat} {r : Reg} {w : ParamWord}

theorem legalWord_iff : legalWord pool r w = true ↔ legal pool r (resetWord pool r) w = w := decide_eq_true_iff

/-- A stored SUS is legal where the old one is. -/
theorem legalSustain_stored {reset old : BitVec 4} (h : legalSustain reset old = old) (d : BitVec 4) :
    legalSustain reset (legalSustain old d) = legalSustain old d := by
  by_cases hd : d.toNat ≤ 7 ∨ d = 15#4
  · simp [legalSustain, hd]
  · rw [show legalSustain old d = old from if_neg hd, h]

/-- A stored END is legal where the old one is. -/
theorem legalEnd_stored {reset old : BitVec 4} (h : legalEnd reset old = old) (d : BitVec 4) :
    legalEnd reset (legalEnd old d) = legalEnd old d := by
  by_cases hd : d.toNat ≤ 7
  · simp [legalEnd, hd]
  · rw [show legalEnd old d = old from if_neg hd, h]

theorem poolByte_toNat (h : pool ≤ 255) : (BitVec.ofNat 8 pool).toNat = pool := by
  rw [BitVec.toNat_ofNat, Nat.mod_eq_of_lt (by omega)]

/-- LEGAL stores a legal word over a legal one, for every POOL of R6. -/
theorem legalWord_legal (hpos : 1 ≤ pool) (hpool : pool ≤ 255) {old : ParamWord} (h : legalWord pool r old = true)
    (d : ParamWord) : legalWord pool r (legal pool r old d) = true := by
  rw [legalWord_iff] at h ⊢
  cases r with
  | envSustain t l =>
    have hfield := congrArg (BitVec.extractLsb' 0 4) h
    simp only [legal, BitVec.extractLsb'_append_eq_right] at hfield ⊢
    rw [legalSustain_stored hfield]
  | envEnd t l =>
    have hfield := congrArg (BitVec.extractLsb' 0 4) h
    simp only [legal, BitVec.extractLsb'_append_eq_right] at hfield ⊢
    rw [legalEnd_stored hfield]
  | sysCfg =>
    have hbounds : (1#8).toNat ≤ (BitVec.ofNat 8 pool).toNat := by rw [poolByte_toNat hpool]; exact hpos
    simp (disch := decide) only [legal, legalSysCfg, BitVec.extractLsb'_append_eq_of_add_le,
      BitVec.extractLsb'_append_eq_of_le, BitVec.extractLsb'_eq_self, Nat.sub_self, clampCode_clampCode _ hbounds]
  | arpTempo =>
    simp (disch := decide) only [legal, lo16, BitVec.extractLsb'_append_eq_of_add_le, BitVec.extractLsb'_eq_self,
      clampCode_clampCode]
  | _ =>
    simp (disch := decide) only [legal, legalUq15Pair, legalUq15Word, legalOscCfg, legalDetune, legalArpCtl, capUq15, lo16,
      hi16, BitVec.extractLsb'_append_eq_of_add_le, BitVec.extractLsb'_append_eq_of_le, BitVec.extractLsb'_eq_self,
      Nat.sub_self, capTo_capTo]

/-! ## Every word of a bank of legal words is legal -/

/-- Every reset word is legal. -/
theorem legalWord_resetWord (r : Reg) : legalWord ref.pool r (resetWord ref.pool r) = true := by
  cases r with
  | envStage t l s =>
    revert s
    cases t <;> cases l <;> decide
  | envSustain t l => cases t <;> cases l <;> decide
  | envEnd t l => cases t <;> cases l <;> decide
  | envInit t l => cases t <;> cases l <;> decide
  | oscCfg l => cases l <;> decide
  | oscLevel l => cases l <;> decide
  | detune l => cases l <;> decide
  | efx i => exact decide_eq_true rfl
  | _ => decide

/-- A bank of legal words reads a legal word at every register. -/
theorem legalWord_bankRead {b : Bank} (h : Bank.legal ref.pool b = true) (r : Reg) :
    legalWord ref.pool r (bankRead ref.pool b r) = true := by
  unfold bankRead
  split
  · next w hw =>
    have hmem : (regAddr r, w) ∈ b := by
      obtain ⟨before, after, rfl, -⟩ := List.lookup_eq_some_iff.1 hw
      simp
    have hcell := List.all_eq_true.1 h (regAddr r, w) hmem
    rwa [regAt_regAddr] at hcell
  · exact legalWord_resetWord r

/-! ## What a command record stores is legal -/

variable {N Post : Type} (P : Config.Params N Post)

/-- `t` is `s`, or `s` with a legal word stored in one register of ACTIVE. -/
def StoresLegal (s t : Engine N Post) : Prop :=
  t = s ∨ ∃ r w, legalWord P.pool r w = true ∧ t = writeActive P s r w

theorem applyStage_storesLegal (t : EnvType) (line : BitVec 2) (index : BitVec 4) (rate level : Code) (s : Engine N Post) :
    StoresLegal P s (applyStage P t line index rate level s) := by
  unfold applyStage
  split
  · exact .inl rfl
  · split
    · refine .inr ⟨_, _, legalWord_iff.2 ?_, rfl⟩
      simp (disch := decide) only [legal, legalUq15Pair, capUq15, lo16, hi16, BitVec.extractLsb'_append_eq_left,
        BitVec.extractLsb'_append_eq_right, capTo_capTo]
    · exact .inl rfl

theorem applySustain_storesLegal (t : EnvType) (line : BitVec 2) (index : BitVec 4) (s : Engine N Post) :
    StoresLegal P s (applySustain P t line index s) := by
  unfold applySustain
  split
  · exact .inl rfl
  · split
    · next h =>
      refine .inr ⟨_, _, legalWord_iff.2 ?_, rfl⟩
      simp only [legal, BitVec.extractLsb'_append_eq_right, legalSustain, if_pos h]
    · exact .inl rfl

theorem applyEnd_storesLegal (t : EnvType) (line : BitVec 2) (index : BitVec 4) (s : Engine N Post) :
    StoresLegal P s (applyEnd P t line index s) := by
  unfold applyEnd
  split
  · exact .inl rfl
  · split
    · next h =>
      refine .inr ⟨_, _, legalWord_iff.2 ?_, rfl⟩
      simp only [legal, BitVec.extractLsb'_append_eq_right, legalEnd, if_pos h]
    · exact .inl rfl

/-- APPLY ignores its record or stores a legal word in one register of ACTIVE (R305). -/
theorem applyRecord_storesLegal (r : Rec) (s : Engine N Post) : StoresLegal P s (applyRecord P r s) := by
  unfold applyRecord
  split
  · exact applyStage_storesLegal P .dcw _ _ _ _ s
  · exact applyStage_storesLegal P .dca _ _ _ _ s
  · exact applyStage_storesLegal P .pitch _ _ _ _ s
  · exact applySustain_storesLegal P .dcw _ _ s
  · exact applySustain_storesLegal P .dca _ _ s
  · exact applySustain_storesLegal P .pitch _ _ s
  · exact applyEnd_storesLegal P .dcw _ _ s
  · exact applyEnd_storesLegal P .dca _ _ s
  · exact applyEnd_storesLegal P .pitch _ _ s
  · exact .inl rfl

/-! ## Banks in range -/

variable {b : Bank}

/-- A stored legal word keeps a bank in range. -/
theorem bankOk_bankWrite (h : BankOk b) {r : Reg} {w : ParamWord} (hw : legalWord ref.pool r w = true) :
    BankOk (bankWrite ref.pool b r w) := ⟨bankWrite_wf h.1 r w, bankWrite_legal h.2 hw⟩

/-- VLIM is 1 to POOL (R43). -/
theorem voiceLimit_bounds (h : BankOk b) : 1 ≤ voiceLimit ref b ∧ voiceLimit ref b ≤ 8 := by
  have hword := congrArg (BitVec.extractLsb' 0 8) (legalWord_iff.1 (legalWord_bankRead h.2 .sysCfg))
  simp (disch := decide) only [legal, legalSysCfg, BitVec.extractLsb'_append_eq_of_add_le, BitVec.extractLsb'_eq_self]
    at hword
  have hbounds := clampCode_bounds ((bankRead ref.pool b .sysCfg).extractLsb' 0 8) (lo := 1#8) (hi := BitVec.ofNat 8 ref.pool)
    (by decide)
  rw [hword] at hbounds
  exact hbounds

/-- The tempo is at least 20 beats a minute (R44). -/
theorem arpBpm_ge (h : BankOk b) : 20 ≤ arpBpm ref b := by
  have hword := congrArg lo16 (legalWord_iff.1 (legalWord_bankRead h.2 .arpTempo))
  simp (disch := decide) only [legal, lo16, BitVec.extractLsb'_append_eq_of_add_le, BitVec.extractLsb'_eq_self] at hword
  have hbounds := clampCode_bounds (lo16 (bankRead ref.pool b .arpTempo)) (lo := 320#16) (hi := 4800#16) (by decide)
  rw [lo16, hword] at hbounds
  have hcode : (320 : ℚ) ≤ ((lo16 (bankRead ref.pool b .arpTempo)).toNat : ℚ) := by exact_mod_cast hbounds.1
  rw [arpBpm, uq124]
  linarith

end Sys2Proof.Machine
end

section
/-! SUPPORT. TIME under each instruction (10_state.md R21). -/

namespace Sys2Proof.Machine

variable {N Post : Type} (P : Config.Params N Post)

/-! ## TIME off the sample clock (R21) -/

@[simp] theorem allocNoteOn_time (s : Engine N Post) (n : Note) (vel : N) : (allocNoteOn P s n vel).time = s.time := by
  rw [allocNoteOn_frame]

@[simp] theorem allocNoteOff_time (s : Engine N Post) (n : Note) : (allocNoteOff P s n).time = s.time := by
  rw [allocNoteOff_frame]

@[simp] theorem arpFire_time (s : Engine N Post) : (arpFire P s).time = s.time := by rw [arpFire_frame]

@[simp] theorem arpStop_time (s : Engine N Post) : (arpStop P s).time = s.time := by rw [arpStop_frame]

theorem arpKeyDown_time (s : Engine N Post) (n : Note) : (arpKeyDown P s n).time = s.time := by
  unfold arpKeyDown
  split
  · rfl
  · simp only
    split
    · simp [arpStart]
    · rfl

theorem arpKeyUp_time (s : Engine N Post) (n : Note) : (arpKeyUp P s n).time = s.time := by
  unfold arpKeyUp
  split
  · simp only
    split
    · simp
    · rfl
  · rfl

theorem keyDown_time (n : Note) (vel : Code) (s : Engine N Post) : (keyDown P n vel s).time = s.time := by
  unfold keyDown
  split
  · exact arpKeyDown_time P s n
  · exact allocNoteOn_time P s n _

theorem keyUp_time (n : Note) (s : Engine N Post) : (keyUp P n s).time = s.time := by
  unfold keyUp
  split
  · exact arpKeyUp_time P s n
  · exact allocNoteOff_time P s n

theorem writeShadow_time (a : ParamAddr) (d : ParamWord) (s : Engine N Post) : (writeShadow P a d s).time = s.time := by
  unfold writeShadow
  split <;> rfl

theorem pushRecord_time (r : Rec) (s : Engine N Post) : (pushRecord P r s).time = s.time := by
  unfold pushRecord
  split <;> rfl

theorem StoresLegal.time {s t : Engine N Post} (h : StoresLegal P s t) : t.time = s.time := by
  obtain rfl | ⟨r, w, -, rfl⟩ := h <;> rfl

/-- For any parameters, an instruction other than TICK leaves TIME as it was. -/
theorem engineExec_time (i : Instr) (h : ∀ c, i ≠ .tick c) (s : Engine N Post) : (engineExec P i s).time = s.time := by
  cases i with
  | tick count => exact absurd rfl (h count)
  | noteOn note vel => exact keyDown_time P note vel s
  | noteOff note => exact keyUp_time P note s
  | paramWrite addr data => exact writeShadow_time P addr data s
  | cmdPush record => exact pushRecord_time P record s
  | dcwStage line index rate level => exact (applyStage_storesLegal P .dcw line index rate level s).time
  | dcaStage line index rate level => exact (applyStage_storesLegal P .dca line index rate level s).time
  | pitchStage line index rate level => exact (applyStage_storesLegal P .pitch line index rate level s).time
  | dcwSustain line index => exact (applySustain_storesLegal P .dcw line index s).time
  | dcaSustain line index => exact (applySustain_storesLegal P .dca line index s).time
  | pitchSustain line index => exact (applySustain_storesLegal P .pitch line index s).time
  | dcwEnd line index => exact (applyEnd_storesLegal P .dcw line index s).time
  | dcaEnd line index => exact (applyEnd_storesLegal P .dca line index s).time
  | pitchEnd line index => exact (applyEnd_storesLegal P .pitch line index s).time
  | _ => rfl

/-- COUNT as a 64-bit number. -/
theorem ofNat_toNat_count (c : BitVec 32) : BitVec.ofNat 64 c.toNat = c.setWidth 64 := by
  apply BitVec.eq_of_toNat_eq
  simp

/-- Settles O7: the frames of the instructions leave TIME alone, and TICK's sample steps each add 1. -/
theorem onlyTickMovesTime : Obligations.OnlyTickMovesTime := by
  refine ⟨fun i s t hi h => ?_, fun c s => ⟨_, exec_eq_engineExec (.tick c) s, ?_⟩⟩
  · rw [exec_eq_engineExec] at h
    cases h
    exact engineExec_time ref i hi s.toEngine
  · calc (sampleSteps ref c.toNat s.toEngine).time
        = s.time + BitVec.ofNat 64 c.toNat := sampleSteps_time ref c.toNat s.toEngine
      _ = s.time + c.setWidth 64 := by rw [ofNat_toNat_count]

end Sys2Proof.Machine
end

section
/-! SUPPORT. The fields of a register word as numbers, and so the fields of a bank as the engine decodes them (10_state.md R31,
R33-R44). -/

namespace Sys2Proof.Machine

/-! ## Fields of a word -/

theorem lo16_toNat (w : ParamWord) : (lo16 w).toNat = w.toNat % 2 ^ 16 := BitVec.extractLsb'_toNat ..

theorem hi16_toNat (w : ParamWord) : (hi16 w).toNat = w.toNat / 2 ^ 16 := by
  rw [hi16, BitVec.extractLsb'_toNat, Nat.shiftRight_eq_div_pow, Nat.mod_eq_of_lt (by omega)]

theorem extractLsb'_toNat_div (w : ParamWord) (lo n : Nat) : (w.extractLsb' lo n).toNat = w.toNat / 2 ^ lo % 2 ^ n := by
  rw [BitVec.extractLsb'_toNat, Nat.shiftRight_eq_div_pow]

theorem getLsbD_iff_div (w : ParamWord) (i : Nat) : w.getLsbD i = true ↔ w.toNat / 2 ^ i % 2 = 1 := by
  rw [BitVec.getLsbD, Nat.testBit_eq_decide_div_mod_eq, decide_eq_true_iff]

/-- A signed code of R12 as a number. -/
theorem code_toInt (c : Code) : (c.toInt : ℚ) = (c.toNat : ℚ) - (if 2 ^ 15 ≤ c.toNat then 2 ^ 16 else 0) := by
  rw [BitVec.toInt_eq_toNat_cond]
  by_cases h : 2 ^ 15 ≤ c.toNat
  · rw [if_neg (by omega), if_pos h]
    push_cast
    rfl
  · rw [if_pos (by omega), if_neg h, sub_zero]
    rfl

theorem uq15_lo16 (w : ParamWord) : uq15 (lo16 w) = (min (w.toNat % 2 ^ 16) 0x8000 : Nat) / 32768 := by
  rw [uq15, lo16_toNat]

theorem uq15_hi16 (w : ParamWord) : uq15 (hi16 w) = (min (w.toNat / 2 ^ 16) 0x8000 : Nat) / 32768 := by
  rw [uq15, hi16_toNat]

variable {N Post : Type} (P : Config.Params N Post) (b : Bank)

theorem bankField_eq (r : Reg) (lo n : Nat) : bankField P b r lo n = (bankRead P.pool b r).toNat / 2 ^ lo % 2 ^ n :=
  extractLsb'_toNat_div _ lo n

theorem bankField_zero_eq (r : Reg) (n : Nat) : bankField P b r 0 n = (bankRead P.pool b r).toNat % 2 ^ n :=
  BitVec.extractLsb'_toNat ..

theorem bankBit_iff (r : Reg) (i : Nat) : bankBit P b r i = true ↔ (bankRead P.pool b r).toNat / 2 ^ i % 2 = 1 :=
  getLsbD_iff_div _ i

/-! ## The envelope registers (R33-R36) -/

theorem sustainPoint_none {t : EnvType} {l : Line} (h : (bankRead P.pool b (.envSustain t l)).toNat % 16 = 15) :
    sustainPoint P b t l = none := by
  have hfield : bankField P b (.envSustain t l) 0 4 = 15 := (bankField_zero_eq ..).trans h
  simp [sustainPoint, hfield]

theorem sustainPoint_some {t : EnvType} {l : Line} {k : Fin 8}
    (h : (bankRead P.pool b (.envSustain t l)).toNat % 16 = k.val) : sustainPoint P b t l = some k := by
  have hfield : bankField P b (.envSustain t l) 0 4 = k.val := (bankField_zero_eq ..).trans h
  simp [sustainPoint, hfield, k.isLt]

theorem endPoint_eq {t : EnvType} {l : Line} {k : Fin 8}
    (h : (bankRead P.pool b (.envEnd t l)).toNat % 16 = k.val) : endPoint P b t l = k := by
  have hfield : bankField P b (.envEnd t l) 0 4 = k.val := (bankField_zero_eq ..).trans h
  simp [endPoint, hfield]

/-! ## The oscillator registers (R37, R40) -/

theorem waveA_eq (l : Line) : waveA P b l = waveOfCode ((bankRead P.pool b (.oscCfg l)).toNat % 8) :=
  congrArg waveOfCode (bankField_zero_eq P b (.oscCfg l) 3)

theorem waveB_eq (l : Line) : waveB P b l = waveOfCode ((bankRead P.pool b (.oscCfg l)).toNat / 8 % 8) :=
  congrArg waveOfCode (bankField_eq P b (.oscCfg l) 3 3)

/-- The waveform of each code (R144). -/
theorem waveOfCode_eq : ∀ p ∈ [(0, Wave.saw), (1, .square), (2, .pulse), (3, .dsine), (4, .reso1), (5, .reso2), (6, .reso3)],
    waveOfCode p.1 = p.2 := by decide

/-- A DETUNE word with bit 0 clear is a signed number of semitones. -/
theorem detuneOf_fine {w : ParamWord} (h : w.toNat % 2 = 0) :
    detuneOf w = ((w.toNat / 2 ^ 16 : Nat) - (if 2 ^ 31 ≤ w.toNat then 2 ^ 16 else 0)) / 256 := by
  have hbit : ¬w.getLsbD 0 = true := by rw [getLsbD_iff_div]; omega
  have hsign : 2 ^ 15 ≤ w.toNat / 2 ^ 16 ↔ 2 ^ 31 ≤ w.toNat := by omega
  rw [detuneOf, if_neg hbit, sq78, code_toInt, hi16_toNat]
  simp only [hsign]

/-- A DETUNE word with bit 0 set is a sign, octaves, semitones and sixtieths. -/
theorem detuneOf_coarse {w : ParamWord} (h : w.toNat % 2 = 1) :
    detuneOf w = (if w.toNat / 2 % 2 = 1 then -1 else 1) *
      (12 * (w.toNat / 4 % 4 : Nat) + (w.toNat / 16 % 16 : Nat) + (w.toNat / 256 % 64 : Nat) / 60) := by
  have hbit : w.getLsbD 0 = true := by rw [getLsbD_iff_div]; omega
  have hsign : w.getLsbD 1 = true ↔ w.toNat / 2 % 2 = 1 := by rw [getLsbD_iff_div]; norm_num
  rw [detuneOf, if_pos hbit]
  simp only [hsign, extractLsb'_toNat_div]
  split
  · norm_num
  · norm_num

/-! ## The mixer, system and arpeggiator registers (R39, R43, R44) -/

theorem bankBit_zero_iff (r : Reg) : bankBit P b r 0 = true ↔ (bankRead P.pool b r).toNat % 2 = 1 := by
  rw [bankBit_iff, pow_zero, Nat.div_one]

theorem voiceLimit_eq : voiceLimit P b = (bankRead P.pool b .sysCfg).toNat % 256 :=
  bankField_zero_eq P b .sysCfg 8

theorem oversampling_eq : oversampling P b = (bankRead P.pool b .sysCfg).toNat / 256 % 4 := bankField_eq P b .sysCfg 8 2

theorem arpPattern_eq : arpPattern P b = patternOfCode ((bankRead P.pool b .arpCtl).toNat / 2 % 8) :=
  congrArg patternOfCode (bankField_eq P b .arpCtl 1 3)

/-- The pattern of each code (R349). -/
theorem patternOfCode_eq : ∀ p ∈ [(0, Pattern.up), (1, .down), (2, .upDown), (3, .random), (4, .asPlayed)],
    patternOfCode p.1 = p.2 := by decide

theorem penvDepth_eq : penvDepth P b = (((bankRead P.pool b .pitchDepth).toNat % 2 ^ 16 : Nat) -
    (if 2 ^ 15 ≤ (bankRead P.pool b .pitchDepth).toNat % 2 ^ 16 then 2 ^ 16 else 0)) / 256 := by
  rw [penvDepth, sq78, code_toInt, lo16_toNat]

theorem wheelVib_eq : wheelVib P b = ((bankRead P.pool b .modMatrix).toNat / 2 ^ 16 : Nat) / 256 := by
  rw [wheelVib, uq88, hi16_toNat]

theorem vibDepth_eq : vibDepth P b = ((bankRead P.pool b .vibrato).toNat % 2 ^ 16 : Nat) / 256 := by
  rw [vibDepth, uq88, lo16_toNat]

theorem arpBpm_eq : arpBpm P b = ((bankRead P.pool b .arpTempo).toNat % 2 ^ 16 : Nat) / 16 := by
  rw [arpBpm, uq124, lo16_toNat]

theorem arpSwing_eq : arpSwing P b =
    P.num.min (numOf P ((min ((bankRead P.pool b .arpSwing).toNat % 2 ^ 16) 0x8000 : Nat) / 32768)) P.swingMax := by
  rw [arpSwing, uq15_lo16]

theorem arpJitter_eq : arpJitter P b =
    P.num.mul (numOf P ((min ((bankRead P.pool b .arpJitter).toNat % 2 ^ 16) 0x8000 : Nat) / 32768)) P.jitterMax := by
  rw [arpJitter, uq15_lo16]
  rfl

/-- Settles O44: every field is cut out of its register's word. -/
theorem parameterFieldsDecode : Obligations.ParameterFieldsDecode := by
  intro N Post P b word hword
  obtain rfl : word = fun r => (bankRead P.pool b r).toNat := funext hword
  refine ⟨fun t l => ?envelopes, fun l => ?oscillators, ?mixer, ?amounts, ?system, ?arpeggiator, rfl, rfl⟩
  case envelopes =>
    exact ⟨fun k => ⟨lo16_toNat _, hi16_toNat _⟩, sustainPoint_none P b, fun k => sustainPoint_some P b,
      fun k => endPoint_eq P b, uq15_lo16 _⟩
  case oscillators =>
    refine ⟨fun p hp => ⟨fun h => ?_, fun h => ?_⟩, bankBit_iff P b _ 6, uq15_lo16 _, detuneOf_fine, detuneOf_coarse⟩
    · rw [waveA_eq, h, waveOfCode_eq p hp]
    · rw [waveB_eq, h, waveOfCode_eq p hp]
  case mixer => exact ⟨bankBit_zero_iff P b .mixCfg, bankBit_iff P b .mixCfg 1, bankBit_iff P b .mixCfg 2⟩
  case amounts =>
    exact ⟨uq15_lo16 _, uq15_hi16 _, uq15_lo16 _, uq15_lo16 _, wheelVib_eq P b, vibDepth_eq P b, penvDepth_eq P b⟩
  case system =>
    exact ⟨voiceLimit_eq P b, oversampling_eq P b, congrArg (2 ^ ·) (oversampling_eq P b), bankBit_iff P b .sysCfg 10,
      bankBit_iff P b .sysCfg 11⟩
  case arpeggiator =>
    refine ⟨bankBit_zero_iff P b .arpCtl, fun p hp h => ?_, congrArg (· + 1) (bankField_eq P b .arpCtl 4 2),
      bankField_eq P b .arpCtl 6 3, arpBpm_eq P b, uq15_lo16 _, arpSwing_eq P b, arpJitter_eq P b⟩
    rw [arpPattern_eq, h, patternOfCode_eq p hp]

end Sys2Proof.Machine
end

section
/-! SUPPORT. The ranges of the operand formats, of envelope units and of voices: every operation on a unit or a voice in range
leaves it in range (00_scope.md R12; 10_state.md R48, R50; 42_envelope.md R185-R191; 43_voice.md R220-R225). -/

namespace Sys2Proof.Machine

/-! ## Operand formats (R12) -/

theorem uq15_bounds (c : Code) : 0 ≤ uq15 c ∧ uq15 c ≤ 1 := by
  have hcode : ((min c.toNat 0x8000 : Nat) : ℚ) ≤ 32768 := by exact_mod_cast min_le_right c.toNat 0x8000
  exact ⟨by unfold uq15; positivity, by unfold uq15; linarith⟩

theorem sq78_bounds (c : Code) : -128 ≤ sq78 c ∧ sq78 c ≤ 128 - 1 / 256 := by
  have hlo : (-32768 : ℚ) ≤ (c.toInt : ℚ) := by exact_mod_cast BitVec.le_toInt c
  have hhi : (c.toInt : ℚ) ≤ 32767 := by exact_mod_cast Int.le_of_lt_add_one (BitVec.toInt_lt (x := c))
  exact ⟨by unfold sq78; linarith, by unfold sq78; linarith⟩

theorem sq114_bounds (c : Code) : -1 ≤ sq114 c ∧ sq114 c ≤ 1 :=
  ⟨le_min (le_max_right _ _) (by norm_num), min_le_right _ _⟩

/-! ## Rationals in a range -/

theorem ratWithin_iff {lo hi : ℚ} {x : Exact} : ratWithin lo hi x = true ↔ ∃ q, x = .rat q ∧ lo ≤ q ∧ q ≤ hi := by
  cases x with
  | rat q => simp [ratWithin]
  | _ => simp [ratWithin]

theorem ratWithin_rat {lo hi q : ℚ} (h : lo ≤ q ∧ q ≤ hi) : ratWithin lo hi (.rat q) = true := decide_eq_true h

theorem ratPositive_iff {x : Exact} : ratPositive x = true ↔ ∃ q, x = .rat q ∧ 0 < q := by
  cases x with
  | rat q => simp [ratPositive]
  | _ => simp [ratPositive]

/-- A rational in [0, 1] denotes a real of [0, 1]. -/
theorem toReal_mem_unit {x : Exact} (h : ratWithin 0 1 x = true) : 0 ≤ x.toReal ∧ x.toReal ≤ 1 := by
  obtain ⟨q, rfl, hlo, hhi⟩ := ratWithin_iff.1 h
  rw [toReal_rat]
  exact ⟨by exact_mod_cast hlo, by exact_mod_cast hhi⟩

/-! ## Envelope units (R185-R191) -/

variable (b : Bank) (t : EnvType) (l : Line) {e : Env Exact}

theorem rampTicks_pos (fast : Bool) (i : Nat) : 1 ≤ rampTicks ref fast i := le_max_left _ _

/-- A unit that ARM has armed is in range, unless it holds. -/
theorem envOk_arm (hval : ratWithin 0 1 e.val = true) (hhold : e.hold = false) (s : Fin 8) :
    EnvOk (envArm ref b t l e s) := by
  have hdur : 1 ≤ (envArm ref b t l e s).dur := rampTicks_pos _ _
  refine ⟨hval, hval, ratWithin_rat (uq15_bounds _), hdur, Nat.zero_le _, fun _ _ => hdur, fun h => ?_⟩
  exact absurd (hhold.symm.trans h) Bool.false_ne_true

theorem envOk_noteOn : EnvOk (envNoteOn ref b t l e) :=
  envOk_arm b t l (e := { e with stage := 0, active := true, rel := false, hold := false, val := .rat (envInitial ref b t l) })
    (ratWithin_rat (uq15_bounds _)) rfl 0

theorem envOk_noteOff (h : EnvOk e) : EnvOk (envNoteOff ref b t l e) := by
  unfold envNoteOff
  split
  · exact envOk_arm b t l (e := { e with rel := true, hold := false, stage := endPoint ref b t l }) h.1 rfl _
  · exact h

/-- COMPLETE on an active unit that does not hold, at the end of its ramp. -/
theorem envOk_complete (hval : ratWithin 0 1 e.val = true) (hv0 : ratWithin 0 1 e.v0 = true)
    (htgt : ratWithin 0 1 e.tgt = true) (hdur : 1 ≤ e.dur) (hk : e.k ≤ e.dur) (hactive : e.active = true)
    (hhold : e.hold = false) : EnvOk (envComplete ref b t l e) := by
  unfold envComplete
  split
  · next hsustain =>
    obtain ⟨-, hrel⟩ := hsustain
    exact ⟨hval, hv0, htgt, hdur, hk, fun _ h => absurd h (by simp), fun _ => ⟨hactive, hrel⟩⟩
  · split
    · exact ⟨hval, hv0, htgt, hdur, hk, fun h => absurd h (by simp), fun h => absurd (hhold.symm.trans h) (by simp)⟩
    · exact envOk_arm b t l (e := { e with stage := e.stage + 1 }) hval hhold _

/-- A point of the ramp between two values of [0, 1] lies in [0, 1] (R186). -/
theorem ratWithin_envRamp (hv0 : ratWithin 0 1 e.v0 = true) (htgt : ratWithin 0 1 e.tgt = true) {k : Nat} (hdur : 1 ≤ e.dur)
    (hk : k ≤ e.dur) : ratWithin 0 1 (envRamp ref e k) = true := by
  obtain ⟨v, hv, hv0, hv1⟩ := ratWithin_iff.1 hv0
  obtain ⟨g, hg, hg0, hg1⟩ := ratWithin_iff.1 htgt
  have hdur' : (0 : ℚ) < e.dur := by exact_mod_cast hdur
  have hk' : (k : ℚ) ≤ e.dur := by exact_mod_cast hk
  have hform : envRamp ref e k = .rat (v + (e.dur : ℚ)⁻¹ * ((g + -1 * v) * k)) := by
    unfold envRamp
    rw [hv, hg]
    rfl
  have hpart0 : 0 ≤ (k : ℚ) / e.dur := by positivity
  have hpart1 : (k : ℚ) / e.dur ≤ 1 := (div_le_one hdur').2 hk'
  have hconvex : v + (e.dur : ℚ)⁻¹ * ((g + -1 * v) * k) = (1 - k / e.dur) * v + k / e.dur * g := by
    field_simp
    ring
  rw [hform, hconvex]
  exact ratWithin_rat ⟨by nlinarith, by nlinarith⟩

theorem envOk_advance (h : EnvOk e) : EnvOk (envAdvance ref b t l e) := by
  obtain ⟨hval, hv0, htgt, hdur, hk, hleft, hhold⟩ := h
  unfold envAdvance
  split
  · exact ⟨hval, hv0, htgt, hdur, hk, hleft, hhold⟩
  · next hrun =>
    obtain ⟨hon, hgo⟩ := not_or.1 hrun
    have hactive : e.active = true := Bool.eq_true_of_not_eq_false hon
    have hfree : e.hold = false := Bool.eq_false_of_not_eq_true hgo
    have hlt := hleft hactive hfree
    split
    · exact envOk_complete b t l (e := { e with k := e.k + 1, val := e.tgt }) htgt hv0 htgt hdur hlt hactive hfree
    · next hgoing =>
      have hmore : e.k + 1 < e.dur := by omega
      exact ⟨ratWithin_envRamp hv0 htgt hdur hlt, hv0, htgt, hdur, hlt, fun _ _ => hmore, hhold⟩

/-! ## Voices (R220-R225) -/

variable {v : RefVoice}

/-- The six units of a voice one by one. -/
theorem voiceOk_iff : VoiceOk v ↔ ratWithin 0 1 v.vel = true ∧ v.ctl < 8 ∧ ∀ t l, EnvOk (voiceEnv v t l) := by
  constructor
  · rintro ⟨hvel, hctl, henvs⟩
    exact ⟨hvel, hctl, fun t l => henvs _ (by cases t <;> cases l <;> simp [voiceEnv])⟩
  · rintro ⟨hvel, hctl, henvs⟩
    refine ⟨hvel, hctl, ?_⟩
    simp only [List.forall_mem_cons, List.not_mem_nil, false_imp_iff, implies_true, and_true]
    exact ⟨henvs .dcw .one, henvs .dcw .two, henvs .dca .one, henvs .dca .two, henvs .pitch .one, henvs .pitch .two⟩

/-- An operation that leaves every unit in range leaves the voice in range. -/
theorem voiceOk_mapEnvs {f : EnvType → Line → Env Exact → Env Exact} (hvel : ratWithin 0 1 v.vel = true) (hctl : v.ctl < 8)
    (h : ∀ t l, EnvOk (f t l (voiceEnv v t l))) : VoiceOk (mapEnvs f v) :=
  voiceOk_iff.2 ⟨hvel, hctl, fun t l => by rw [voiceEnv_mapEnvs]; exact h t l⟩

theorem voiceOk_noteOn (time : BitVec 64) (n : Note) {vel : Exact} (hvel : ratWithin 0 1 vel = true) (v : RefVoice) :
    VoiceOk (voiceNoteOn ref b time n vel v) :=
  voiceOk_mapEnvs (v := { v with note := n, vel := vel, stamp := time, rel := false, ctl := 0, osc1 := phaseReset v.osc1
                                 osc2 := phaseReset v.osc2 }) hvel (Nat.succ_pos 7) fun t l => envOk_noteOn b t l

theorem voiceOk_noteOff (h : VoiceOk v) : VoiceOk (voiceNoteOff ref b v) := by
  obtain ⟨hvel, hctl, henvs⟩ := voiceOk_iff.1 h
  exact voiceOk_mapEnvs (v := { v with rel := true }) hvel hctl fun t l => envOk_noteOff b t l (by exact henvs t l)

theorem voiceOk_renderEnvelopes (h : VoiceOk v) : VoiceOk (renderEnvelopes ref b v) := by
  obtain ⟨hvel, hctl, henvs⟩ := voiceOk_iff.1 h
  have hunits : VoiceOk (if v.ctl = 0 then mapEnvs (envAdvance ref b) v else v) := by
    split
    · exact voiceOk_mapEnvs hvel hctl fun t l => envOk_advance b t l (henvs t l)
    · exact h
  exact ⟨hunits.1, Nat.mod_lt _ (by decide), hunits.2.2⟩

theorem voiceOk_voiceRender (s : RefEngine) (h : VoiceOk v) : VoiceOk (voiceRender ref s v).2 := by
  unfold voiceRender
  split
  · exact h
  · exact voiceOk_renderEnvelopes s.active h

end Sys2Proof.Machine
end

section
/-! SUPPORT. The output bound: the sample of a voice in range lies in [-2, 2], and so the sum of a pool of 8 in [-16, 16]
(10_state.md R28; 43_voice.md R228-R237). -/

namespace Sys2Proof.Machine

/-! ## One line's signal (R158, R228) -/

/-- The sample of an oscillator is clamped. -/
theorem oscSample_bounds (b : Bank) (l : Line) (o : Osc) (d : Exact) :
    -1 ≤ (oscSample ref b l o d).toReal ∧ (oscSample ref b l o d).toReal ≤ 1 := by
  simp only [oscSample, waveSample, numClamp, ref_min, ref_max, numOf_ref, toReal_rat]
  push_cast
  exact ⟨le_min (le_max_right _ _) (by norm_num), min_le_right _ _⟩

theorem abs_oscSample_le (b : Bank) (l : Line) (o : Osc) (d : Exact) : |(oscSample ref b l o d).toReal| ≤ 1 :=
  abs_le.2 (oscSample_bounds b l o d)

/-- A field of format UQ1.15 as a real. -/
theorem uq15_cast_bounds (c : Code) : 0 ≤ (uq15 c : ℝ) ∧ (uq15 c : ℝ) ≤ 1 := by
  obtain ⟨hlo, hhi⟩ := uq15_bounds c
  exact ⟨by exact_mod_cast hlo, by exact_mod_cast hhi⟩

variable {s : RefEngine} {v : RefVoice} (l : Line)

/-- The amplitude of a line lies in [0, 1]. -/
theorem dcaAmount_bounds (h : VoiceOk v) : 0 ≤ (dcaAmount ref s v l).toReal ∧ (dcaAmount ref s v l).toReal ≤ 1 := by
  obtain ⟨hvel, -, henvs⟩ := voiceOk_iff.1 h
  obtain ⟨hval, -⟩ := henvs .dca l
  obtain ⟨hval0, hval1⟩ := toReal_mem_unit hval
  obtain ⟨hvel0, hvel1⟩ := toReal_mem_unit hvel
  obtain ⟨hsens0, hsens1⟩ := uq15_cast_bounds (lo16 (bankRead ref.pool s.active .velSens))
  have hloss : 0 ≤ (vsDca ref s.active : ℝ) * (1 - v.vel.toReal) ∧ (vsDca ref s.active : ℝ) * (1 - v.vel.toReal) ≤ 1 :=
    ⟨mul_nonneg hsens0 (by linarith), mul_le_one₀ hsens1 (by linarith) (by linarith)⟩
  obtain ⟨hloss0, hloss1⟩ := hloss
  simp only [dcaAmount, ref_mul, ref_sub, numOf_ref, toReal_rat, Rat.cast_one]
  exact ⟨mul_nonneg hval0 (by linarith), mul_le_one₀ hval1 (by linarith) (by linarith)⟩

/-- The signal of a line lies in [-1, 1], for a sample that does. -/
theorem abs_lineSignal_le (h : VoiceOk v) {y : Exact} (hy : |y.toReal| ≤ 1) : |(lineSignal ref s v l y).toReal| ≤ 1 := by
  obtain ⟨hamp0, hamp1⟩ := dcaAmount_bounds (s := s) l h
  obtain ⟨hlevel0, hlevel1⟩ := uq15_cast_bounds (lo16 (bankRead ref.pool s.active (.oscLevel l)))
  have hlevel : |(oscLevel ref s.active l : ℝ)| ≤ 1 := (abs_of_nonneg hlevel0).trans_le hlevel1
  have hamp : |(dcaAmount ref s v l).toReal| ≤ 1 := (abs_of_nonneg hamp0).trans_le hamp1
  simp only [lineSignal, ref_mul, numOf_ref, toReal_rat, abs_mul]
  exact mul_le_one₀ (mul_le_one₀ hlevel (abs_nonneg _) hamp) (abs_nonneg _) hy

/-! ## One voice's sample (R230, R237) -/

theorem abs_mix_le (b : Bank) {x y : Exact} (hx : |x.toReal| ≤ 1) (hy : |y.toReal| ≤ 1) : |(mix ref b x y).toReal| ≤ 2 := by
  unfold mix
  split
  · split
    · rw [ref_mul, abs_mul]
      exact (mul_le_one₀ hx (abs_nonneg _) hy).trans one_le_two
    · rw [ref_add]
      exact (abs_add_le _ _).trans (by linarith)
  · exact hx.trans one_le_two

/-- The sample of a voice in range lies in [-2, 2]. -/
theorem abs_voiceRender_le (s : RefEngine) (h : VoiceOk v) : |(voiceRender ref s v).1.toReal| ≤ 2 := by
  have hrendered : VoiceOk (renderPitch ref s (renderEnvelopes ref s.active v)) := voiceOk_renderEnvelopes s.active h
  unfold voiceRender
  split
  · simp
  · exact abs_mix_le s.active (abs_lineSignal_le .one hrendered (abs_oscSample_le ..))
      (abs_lineSignal_le .two hrendered (abs_oscSample_le ..))

/-! ## The outputs (R393) -/

/-- The sum over ℝ is that of a list of reals. -/
theorem numSum_realRef (xs : List ℝ) : numSum realRef xs = xs.sum := by
  rw [List.sum_eq_foldl]
  exact congrArg (xs.foldl (· + ·)) Rat.cast_zero

/-- The output of a sample step is the sum of the voices' samples. -/
theorem renderVoices_outL_toReal (s : RefEngine) :
    (renderVoices ref s).outL.toReal = (s.voices.map fun v => (voiceRender ref s v).1.toReal).sum := by
  rw [renderVoices_outL, numSum_toReal, numSum_realRef, List.map_map, List.map_map]
  rfl

theorem abs_sum_le_of_forall {α : Type} {f : α → ℝ} {c : ℝ} {xs : List α} (h : ∀ x ∈ xs, |f x| ≤ c) :
    |(xs.map f).sum| ≤ xs.length * c := by
  induction xs with
  | nil => simp
  | cons x xs ih =>
    obtain ⟨hx, hxs⟩ := List.forall_mem_cons.1 h
    have hsum := (abs_add_le (f x) (xs.map f).sum).trans (add_le_add hx (ih hxs))
    rw [List.map_cons, List.sum_cons, List.length_cons]
    push_cast
    linarith

/-- The output of a pool in range is within 2 for each voice. -/
theorem abs_outL_le {s : RefEngine} (h : ∀ v ∈ s.voices, VoiceOk v) :
    |(renderVoices ref s).outL.toReal| ≤ s.voices.length * 2 := by
  rw [renderVoices_outL_toReal]
  exact abs_sum_le_of_forall fun v hv => abs_voiceRender_le s (h v hv)

end Sys2Proof.Machine
end

section
/-! SUPPORT. The arpeggiator's lengths: a step length is above 0 wherever ARP_BASE is (46_arpeggiator.md R353-R357). -/

namespace Sys2Proof.Machine

variable (b : Bank)

theorem beats_pos (div : Nat) : 0 < beats div := by
  unfold beats
  split <;> norm_num

/-- `BASE()` of a bank in range is above 0. -/
theorem ratPositive_baseLength {b : Bank} (h : BankOk b) : ratPositive (baseLength ref b) = true := by
  have hbpm : 0 < arpBpm ref b := lt_of_lt_of_le (by norm_num) (arpBpm_ge h)
  have hbeats := beats_pos (arpDivision ref b)
  exact ratPositive_iff.2 ⟨_, rfl, mul_pos (div_pos (by norm_num [ref_fs]) hbpm) hbeats⟩

/-- The swing amount lies in [0, 2/3] (R44). -/
theorem arpSwing_bounds : 0 ≤ (arpSwing ref b).toReal ∧ (arpSwing ref b).toReal ≤ 2 / 3 := by
  obtain ⟨hfield, -⟩ := uq15_cast_bounds (lo16 (bankRead ref.pool b .arpSwing))
  rw [arpSwing, ref_min, numOf_ref, toReal_rat, ref_swingMax, toReal_rat]
  push_cast
  exact ⟨le_min hfield (by norm_num), min_le_right _ _⟩

/-- The swing factor is above 0 (R355). -/
theorem swingFactor_pos (k : Nat) : 0 < (swingFactor ref b k).toReal := by
  obtain ⟨hlo, hhi⟩ := arpSwing_bounds b
  unfold swingFactor
  split
  · simp only [ref_add, ref_div, numOf_ref, toReal_rat]
    push_cast
    linarith
  · simp only [ref_sub, ref_div, numOf_ref, toReal_rat]
    push_cast
    linarith

/-- The jitter amount lies in [0, 1/2] (R44). -/
theorem arpJitter_bounds : 0 ≤ (arpJitter ref b).toReal ∧ (arpJitter ref b).toReal ≤ 1 / 2 := by
  obtain ⟨hlo, hhi⟩ := uq15_cast_bounds (lo16 (bankRead ref.pool b .arpJitter))
  rw [arpJitter, ref_mul, numOf_ref, toReal_rat, ref_jitterMax, toReal_rat]
  push_cast
  exact ⟨by linarith, by linarith⟩

/-- A variate lies in [-1, 1] (R14). -/
theorem drawJitter_bounds (draws : Nat) : -1 ≤ (drawJitter ref draws).toReal ∧ (drawJitter ref draws).toReal ≤ 1 := by
  simp only [drawJitter, numClamp, ref_min, ref_max, numOf_ref, toReal_rat]
  push_cast
  exact ⟨le_min (le_max_right _ _) (by norm_num), min_le_right _ _⟩

/-- The jitter factor is above 0 (R356). -/
theorem jitterFactor_pos (draws : Nat) : 0 < (jitterFactor ref b draws).toReal := by
  obtain ⟨hamount0, hamount1⟩ := arpJitter_bounds b
  obtain ⟨hdraw0, hdraw1⟩ := drawJitter_bounds draws
  rw [jitterFactor, ref_add, ref_mul, numOf_ref, toReal_rat, Rat.cast_one]
  nlinarith

/-- A step length is above 0 where ARP_BASE is (R357). -/
theorem stepLength_pos {s : RefEngine} (h : ratPositive s.arpBase = true) (k : Nat) : 0 < (stepLength ref s k).toReal := by
  obtain ⟨q, hq, hpos⟩ := ratPositive_iff.1 h
  have hbase : 0 < s.arpBase.toReal := by
    rw [hq, toReal_rat]
    exact_mod_cast hpos
  rw [stepLength, ref_mul, ref_mul]
  exact mul_pos (mul_pos hbase (swingFactor_pos _ _)) (jitterFactor_pos _ _)

end Sys2Proof.Machine
end

section
/-! SUPPORT. Every operation of the engine keeps the state invariant (10_state.md sections 2 to 5). -/

namespace Sys2Proof.Machine

/-- `f` takes states in range to states in range. -/
def KeepsInv (f : RefEngine → RefEngine) : Prop := ∀ s, Inv s → Inv (f s)

theorem keepsInv_id : KeepsInv id := fun _ h => h

/-- One operation after another. -/
theorem KeepsInv.comp {f g : RefEngine → RefEngine} (hf : KeepsInv f) (hg : KeepsInv g) : KeepsInv fun s => g (f s) :=
  fun s hs => hg _ (hf s hs)

/-- One operation or the other. -/
theorem KeepsInv.cond {c : RefEngine → Bool} {f g : RefEngine → RefEngine} (hf : KeepsInv f) (hg : KeepsInv g) :
    KeepsInv fun s => if c s then f s else g s := by
  intro s hs
  dsimp only
  split
  · exact hf s hs
  · exact hg s hs

/-! ## The allocator (R262-R268) -/

/-- An operation on the voice of one slot that leaves voices in range. -/
theorem inv_modifyVoice {s : RefEngine} (hs : Inv s) {f : RefVoice → RefVoice} (hf : ∀ v, VoiceOk v → VoiceOk (f v))
    (i : Nat) : Inv { s with voices := s.voices.modify i f } := by
  obtain ⟨hlen, hvoices, hcursor, hcmdq⟩ := hs.pool
  exact { hs with pool := ⟨(List.length_modify ..).trans hlen, forall_mem_modify hvoices hf i, hcursor, hcmdq⟩ }

/-- The choice of a victim leaves RR_CURSOR below VLIM or where it was. -/
theorem stealSelect_cursor_lt {s : RefEngine} (hs : Inv s) : (stealSelect ref s).2.rrCursor < 8 := by
  obtain ⟨-, -, hcursor, -⟩ := hs.pool
  obtain ⟨hpos, hle⟩ := voiceLimit_bounds hs.active
  unfold stealSelect
  split
  · split
    · exact hcursor
    · exact (Nat.mod_lt _ hpos).trans_le hle
  · exact hcursor

theorem allocSelect_keepsInv (n : Note) : KeepsInv fun s => (allocSelect ref s n).2 := by
  intro s hs
  obtain ⟨hlen, hvoices, hcursor, hcmdq⟩ := hs.pool
  dsimp only
  unfold allocSelect
  split
  · exact hs
  · split
    · exact hs
    · rw [stealSelect_frame]
      exact { hs with pool := ⟨hlen, hvoices, stealSelect_cursor_lt hs, hcmdq⟩ }

theorem receiveEvent_keepsInv (e : AllocEvent Exact) : KeepsInv fun s => receiveEvent s e := fun _ hs => { hs with }

/-- `Alloc.noteOn` of a velocity in [0, 1]. -/
theorem allocNoteOn_keepsInv (n : Note) {vel : Exact} (hvel : ratWithin 0 1 vel = true) :
    KeepsInv fun s => allocNoteOn ref s n vel := by
  intro s hs
  have hselected := allocSelect_keepsInv n s hs
  exact receiveEvent_keepsInv _ _ (inv_modifyVoice hselected (fun v _ => voiceOk_noteOn _ _ n hvel v) _)

theorem releaseNote_keepsInv (n : Note) : KeepsInv fun s => releaseNote ref s n := by
  intro s hs
  dsimp only
  unfold releaseNote
  split
  · exact inv_modifyVoice hs (fun v hv => voiceOk_noteOff s.active hv) _
  · exact hs

/-- `Alloc.noteOff`. -/
theorem allocNoteOff_keepsInv (n : Note) : KeepsInv fun s => allocNoteOff ref s n :=
  (releaseNote_keepsInv n).comp (receiveEvent_keepsInv _)

theorem releaseActive_keepsInv : KeepsInv (releaseActive ref) := by
  intro s hs
  obtain ⟨hlen, hvoices, hcursor, hcmdq⟩ := hs.pool
  refine { hs with pool := ⟨(List.length_map ..).trans hlen, ?_, hcursor, hcmdq⟩ }
  intro v hv
  obtain ⟨w, hw, rfl⟩ := List.mem_map.1 hv
  split
  · exact voiceOk_noteOff s.active (hvoices w hw)
  · exact hvoices w hw

/-! ## The arpeggiator (R341-R363) -/

/-- A step length of a state in range replaces ARP_LEN. -/
theorem startLength_keepsInv : KeepsInv (startLength ref) := by
  intro s hs
  obtain ⟨hacc, hacc0, -, -, hbase⟩ := hs.lengths
  exact { hs with
    lengths := ⟨hacc, hacc0, isLinear_stepLength (answerable_of_inv hs) _, stepLength_pos hbase _, hbase⟩ }

/-- SELECT, with the note chosen as ARP_NOTE. -/
theorem select_keepsInv (len : Nat) (note : Note) : KeepsInv fun s => { (selectStep ref s len).2 with arpNote := note } := by
  intro s hs
  dsimp only
  rw [selectStep_frame]
  exact { hs with }

/-- `ARP_FIRE()` of a running sequencer: the gate opens. -/
theorem inv_arpFire {s : RefEngine} (hs : Inv s) (hrun : s.arpRun = true) : Inv (arpFire ref s) := by
  have hplayed := allocNoteOn_keepsInv (nextNote ref s) (ratWithin_rat ⟨zero_le_one, le_rfl⟩) _
    (select_keepsInv (noteBuffer ref s.active s.held).length (nextNote ref s) s hs)
  obtain ⟨hnodup, hfull, hstate, -⟩ := hplayed.arp
  have hstill : (arpFire ref s).arpRun = true := by rw [arpFire_frame]; exact hrun
  exact { hplayed with arp := ⟨hnodup, hfull, hstate, fun _ => hstill⟩ }

theorem arpGateClose_keepsInv : KeepsInv (arpGateClose ref) := by
  intro s hs
  unfold arpGateClose
  split
  · have hreleased := allocNoteOff_keepsInv s.arpNote s hs
    obtain ⟨hnodup, hfull, hstate, -⟩ := hreleased.arp
    exact { hreleased with arp := ⟨hnodup, hfull, hstate, fun h => absurd h Bool.false_ne_true⟩ }
  · exact hs

/-- The sequencer stopped, with nothing held and the gate shut. -/
theorem inv_stopped {s : RefEngine} (hs : Inv s) : Inv { s with held := [], arpRun := false, arpGateOpen := false } :=
  { hs with arp := ⟨List.nodup_nil, Nat.zero_le _, rfl, fun h => absurd h Bool.false_ne_true⟩ }

theorem arpClear_keepsInv : KeepsInv arpClear := fun _ hs => inv_stopped hs

theorem arpDisable_keepsInv : KeepsInv (arpDisable ref) := by
  intro s hs
  have hclosed := inv_stopped (arpGateClose_keepsInv s hs)
  rw [arpGateClose_frame] at hclosed
  rw [arpDisable_frame]
  exact hclosed

/-- A release does not read HELD. -/
theorem releaseNote_held {N Post : Type} (P : Config.Params N Post) (s : Engine N Post) (held : List Note) (n : Note) :
    releaseNote P { s with held := held } n = { releaseNote P s n with held := held } := by
  have hslot : noteOffSlot P { s with held := held } n = noteOffSlot P s n := rfl
  unfold releaseNote
  rw [hslot]
  split <;> rfl

/-- Nor does ARP_GATE_CLOSE. -/
theorem arpGateClose_held {N Post : Type} (P : Config.Params N Post) (s : Engine N Post) (held : List Note) :
    arpGateClose P { s with held := held } = { arpGateClose P s with held := held } := by
  unfold arpGateClose allocNoteOff
  dsimp only
  split
  · rw [releaseNote_held]
    rfl
  · rfl

/-- To stop with nothing held is ARP_DISABLE. -/
theorem arpStop_nil_held {N Post : Type} (P : Config.Params N Post) (s : Engine N Post) :
    arpStop P { s with held := [] } = arpDisable P s := by
  unfold arpDisable arpStop
  rw [arpGateClose_held]

theorem arpGateClose_arpRun {N Post : Type} (P : Config.Params N Post) (s : Engine N Post) :
    (arpGateClose P s).arpRun = s.arpRun := by rw [arpGateClose_frame]

theorem nextStep_keepsInv : KeepsInv fun s => { s with arpStep := s.arpStep + 1 } := fun _ hs => { hs with }

/-- A step that has run its length gives way to the next one, of a running sequencer (R347). -/
theorem inv_arpStepEnd {s : RefEngine} (hs : Inv s) (hrun : s.arpRun = true) : Inv (arpStepEnd ref s) := by
  obtain ⟨hacc, -, hlen, hlen0, hbase⟩ := hs.lengths
  unfold arpStepEnd
  split
  · next hover =>
    have hle : s.arpLen.toReal ≤ s.arpAcc.toReal := (exactLe_iff hlen hacc).1 hover
    have hrest : 0 ≤ (exactSub s.arpAcc s.arpLen).toReal := by
      rw [exactSub_toReal]
      exact sub_nonneg.2 hle
    have htaken : Inv { s with arpAcc := exactSub s.arpAcc s.arpLen } :=
      { hs with lengths := ⟨isLinear_exactSub hacc hlen, hrest, hlen, hlen0, hbase⟩ }
    have hnext := startLength_keepsInv _ (nextStep_keepsInv _ (arpGateClose_keepsInv _ htaken))
    exact inv_arpFire hnext ((arpGateClose_arpRun ref _).trans hrun)
  · exact hs

theorem arpGateEnd_keepsInv : KeepsInv (arpGateEnd ref) :=
  KeepsInv.cond (c := fun s => s.arpGateOpen && decide (arpGateFraction ref s.active < 1) && gateOver ref s)
    arpGateClose_keepsInv keepsInv_id

/-- ARP_ACC counts the sample (R347). -/
theorem countSample_keepsInv : KeepsInv fun s => { s with arpAcc := letI := ref.num; s.arpAcc + numOf ref 1 } := by
  intro s hs
  obtain ⟨hacc, hacc0, hlen, hlen0, hbase⟩ := hs.lengths
  have hmore : 0 ≤ (exactAdd s.arpAcc (.rat 1)).toReal := by
    rw [exactAdd_toReal, toReal_rat, Rat.cast_one]
    exact add_nonneg hacc0 zero_le_one
  exact { hs with lengths := ⟨isLinear_exactAdd hacc (isLinear_rat 1), hmore, hlen, hlen0, hbase⟩ }

/-- `ARP_TICK()`. -/
theorem arpTick_keepsInv : KeepsInv (arpTick ref) := by
  intro s hs
  unfold arpTick
  split
  · next hrun => exact countSample_keepsInv _ (arpGateEnd_keepsInv _ (inv_arpStepEnd hs hrun))
  · exact hs

/-- The first key starts the sequencer, from step 0 (R341). -/
theorem inv_arpStart {s : RefEngine} (hs : Inv s) (n : Note) : Inv (arpStart ref { s with held := [n] }) := by
  obtain ⟨-, -, hlen, hlen0, hbase⟩ := hs.lengths
  have hbegun : Inv { s with
      held := [n], arpRun := true, arpAcc := .rat 0, arpStep := 0, arpIdx := 0, arpDir := .plus } :=
    { hs with
      arp := ⟨List.nodup_singleton n, Nat.le_add_left 1 15, rfl, fun _ => rfl⟩
      lengths := ⟨isLinear_rat 0, by simp, hlen, hlen0, hbase⟩ }
  exact inv_arpFire (startLength_keepsInv _ hbegun) rfl

/-- `ARP_KEY_DOWN(n)`. -/
theorem arpKeyDown_keepsInv (n : Note) : KeepsInv fun s => arpKeyDown ref s n := by
  intro s hs
  obtain ⟨hnodup, hfull, hstate, hgate⟩ := hs.arp
  dsimp only
  unfold arpKeyDown
  split
  · exact hs
  · next hnew =>
    rw [Bool.or_eq_true, not_or, List.contains_iff_mem] at hnew
    obtain ⟨hfresh, hroom⟩ := hnew
    have hroom : s.held.length ≠ 16 := fun h => hroom (decide_eq_true h)
    dsimp only
    split
    · next hfirst =>
      rw [List.isEmpty_iff.1 hfirst]
      exact inv_arpStart hs n
    · next hmore =>
      have hheld : (s.held ++ [n]).Nodup := hnodup.append (List.nodup_singleton n) (List.disjoint_singleton.2 hfresh)
      have hlen : (s.held ++ [n]).length ≤ 16 := by
        rw [List.length_append, List.length_singleton]
        omega
      have hrun : s.arpRun = !(s.held ++ [n]).isEmpty := by
        rw [hstate, Bool.eq_false_of_not_eq_true hmore]
        simp
      exact { hs with arp := ⟨hheld, hlen, hrun, hgate⟩ }

/-- `ARP_KEY_UP(n)`. -/
theorem arpKeyUp_keepsInv (n : Note) : KeepsInv fun s => arpKeyUp ref s n := by
  intro s hs
  obtain ⟨hnodup, hfull, hstate, hgate⟩ := hs.arp
  dsimp only
  unfold arpKeyUp
  split
  · next hmem =>
    dsimp only
    split
    · next hlast =>
      rw [List.isEmpty_iff.1 hlast, arpStop_nil_held]
      exact arpDisable_keepsInv s hs
    · next hothers =>
      have hrun : s.arpRun = !(s.held.filter fun x => x != n).isEmpty := by
        rw [hstate, Bool.eq_false_of_not_eq_true hothers]
        simpa using List.ne_nil_of_mem (List.contains_iff_mem.1 hmem)
      exact { hs with arp := ⟨hnodup.filter _, (List.length_filter_le ..).trans hfull, hrun, hgate⟩ }
  · exact hs

/-! ## The block boundary (R303-R305, R392) -/

/-- A legal word stored in ACTIVE. -/
theorem StoresLegal.inv {s t : RefEngine} (h : StoresLegal ref s t) (hs : Inv s) : Inv t := by
  obtain rfl | ⟨r, w, hw, rfl⟩ := h
  · exact hs
  · exact { hs with active := bankOk_bankWrite hs.active hw }

theorem applyRecord_keepsInv (r : Rec) : KeepsInv (applyRecord ref r) := fun s hs => (applyRecord_storesLegal ref r s).inv hs

theorem applyRecords_keepsInv (rs : List Rec) : KeepsInv fun s => rs.foldl (fun s r => applyRecord ref r s) s := by
  induction rs with
  | nil => exact keepsInv_id
  | cons r rs ih => exact (applyRecord_keepsInv r).comp ih

theorem drain_keepsInv : KeepsInv (drain ref) := by
  intro s hs
  obtain ⟨hlen, hvoices, hcursor, -⟩ := hs.pool
  have hempty : Inv { s with cmdq := [] } := { hs with pool := ⟨hlen, hvoices, hcursor, Nat.zero_le _⟩ }
  exact applyRecords_keepsInv s.cmdq _ hempty

theorem install_keepsInv : KeepsInv (install ref) := by
  have hcopied : KeepsInv fun s => { s with active := s.pending, pendingValid := false } :=
    fun s hs => { hs with active := hs.pending }
  exact KeepsInv.cond (c := fun s => s.pendingValid)
    (KeepsInv.cond (c := fun s => arpOn ref s.active && !arpOn ref s.pending) (hcopied.comp arpDisable_keepsInv) hcopied)
    keepsInv_id

theorem updateBase_keepsInv : KeepsInv (updateBase ref) := by
  intro s hs
  obtain ⟨hacc, hacc0, hlen, hlen0, -⟩ := hs.lengths
  exact { hs with lengths := ⟨hacc, hacc0, hlen, hlen0, ratPositive_baseLength hs.active⟩ }

/-- `BLOCK_BOUNDARY()`. -/
theorem blockBoundary_keepsInv : KeepsInv (blockBoundary ref) :=
  (install_keepsInv.comp drain_keepsInv).comp updateBase_keepsInv

/-! ## The sample step (R390-R393) -/

theorem renderVoices_keepsInv : KeepsInv (renderVoices ref) := by
  intro s hs
  obtain ⟨hlen, hvoices, hcursor, hcmdq⟩ := hs.pool
  have hout := abs_outL_le hvoices
  rw [hlen] at hout
  obtain ⟨hlo, hhi⟩ := abs_le.1 hout
  refine { hs with pool := ⟨by simpa using hlen, ?_, hcursor, hcmdq⟩, output := ⟨rfl, ?_, ?_⟩ }
  · intro v hv
    rw [renderVoices_voices, List.map_map] at hv
    obtain ⟨w, hw, rfl⟩ := List.mem_map.1 hv
    exact voiceOk_voiceRender s (hvoices w hw)
  · exact le_trans (by norm_num) hlo
  · exact hhi.trans (by norm_num)

theorem advanceTime_keepsInv : KeepsInv advanceTime := fun _ hs => { hs with }

/-- `SAMPLE_STEP()`. -/
theorem sampleStep_keepsInv : KeepsInv (sampleStep ref) :=
  (((KeepsInv.cond (c := atBoundary ref) blockBoundary_keepsInv keepsInv_id).comp arpTick_keepsInv).comp
    renderVoices_keepsInv).comp advanceTime_keepsInv

theorem sampleSteps_keepsInv (n : Nat) : KeepsInv (sampleSteps ref n) := by
  induction n with
  | zero => exact keepsInv_id
  | succ n ih => exact sampleStep_keepsInv.comp ih

/-! ## The host's operations (R300-R302) -/

theorem writeShadow_keepsInv (a : ParamAddr) (d : ParamWord) : KeepsInv (writeShadow ref a d) := by
  intro s hs
  unfold writeShadow
  split
  · exact hs
  · next r _ =>
    have hold := legalWord_bankRead hs.shadow.2 r
    exact { hs with shadow := bankOk_bankWrite hs.shadow (legalWord_legal (by decide) (by decide) hold d) }

theorem publish_keepsInv : KeepsInv publish := fun _ hs => { hs with pending := hs.shadow }

theorem pushRecord_keepsInv (r : Rec) : KeepsInv (pushRecord ref r) := by
  intro s hs
  obtain ⟨hlen, hvoices, hcursor, -⟩ := hs.pool
  unfold pushRecord
  split
  · next hroom =>
    have hpushed : (s.cmdq ++ [r]).length ≤ 64 := by
      rw [List.length_append, List.length_singleton]
      exact hroom
    exact { hs with pool := ⟨hlen, hvoices, hcursor, hpushed⟩ }
  · exact hs

/-! ## Note events and setters (R260-R273) -/

theorem keyDown_keepsInv (n : Note) (vel : Code) : KeepsInv (keyDown ref n vel) :=
  KeepsInv.cond (c := fun s => arpOn ref s.active) (arpKeyDown_keepsInv n)
    (allocNoteOn_keepsInv n (ratWithin_rat (uq15_bounds vel)))

theorem keyUp_keepsInv (n : Note) : KeepsInv (keyUp ref n) :=
  KeepsInv.cond (c := fun s => arpOn ref s.active) (arpKeyUp_keepsInv n) (allocNoteOff_keepsInv n)

theorem latchModwheel_keepsInv (val : Code) : KeepsInv (latchModwheel ref val) := by
  intro s hs
  obtain ⟨-, hafter, hbend, hlfo⟩ := hs.latches
  exact { hs with latches := ⟨ratWithin_rat (uq15_bounds val), hafter, hbend, hlfo⟩ }

theorem latchAftertouch_keepsInv (val : Code) : KeepsInv (latchAftertouch ref val) := by
  intro s hs
  obtain ⟨hmod, -, hbend, hlfo⟩ := hs.latches
  exact { hs with latches := ⟨hmod, ratWithin_rat (uq15_bounds val), hbend, hlfo⟩ }

theorem latchPitchbend_keepsInv (val : Code) : KeepsInv (latchPitchbend ref val) := by
  intro s hs
  obtain ⟨hmod, hafter, -, hlfo⟩ := hs.latches
  exact { hs with latches := ⟨hmod, hafter, ratWithin_rat (sq78_bounds val), hlfo⟩ }

theorem latchLfo_keepsInv (val : Code) : KeepsInv (latchLfo ref val) := by
  intro s hs
  obtain ⟨hmod, hafter, hbend, -⟩ := hs.latches
  exact { hs with latches := ⟨hmod, hafter, hbend, ratWithin_rat (sq114_bounds val)⟩ }

/-! ## Every instruction -/

/-- The effect of every instruction keeps the invariant. -/
theorem engineExec_keepsInv (i : Instr) : KeepsInv (engineExec ref i) := by
  cases i with
  | noteOn note vel => exact keyDown_keepsInv note vel
  | noteOff note => exact keyUp_keepsInv note
  | allNotesOff => exact arpClear_keepsInv.comp releaseActive_keepsInv
  | setModwheel val => exact latchModwheel_keepsInv val
  | setAftertouch val => exact latchAftertouch_keepsInv val
  | setPitchbend val => exact latchPitchbend_keepsInv val
  | setLfo val => exact latchLfo_keepsInv val
  | paramWrite addr data => exact writeShadow_keepsInv addr data
  | snapPublish => exact publish_keepsInv
  | cmdPush record => exact pushRecord_keepsInv record
  | tick count => exact sampleSteps_keepsInv count.toNat
  | dcwStage line index rate level => exact fun s hs => (applyStage_storesLegal ref .dcw line index rate level s).inv hs
  | dcaStage line index rate level => exact fun s hs => (applyStage_storesLegal ref .dca line index rate level s).inv hs
  | pitchStage line index rate level => exact fun s hs => (applyStage_storesLegal ref .pitch line index rate level s).inv hs
  | dcwSustain line index => exact fun s hs => (applySustain_storesLegal ref .dcw line index s).inv hs
  | dcaSustain line index => exact fun s hs => (applySustain_storesLegal ref .dca line index s).inv hs
  | pitchSustain line index => exact fun s hs => (applySustain_storesLegal ref .pitch line index s).inv hs
  | dcwEnd line index => exact fun s hs => (applyEnd_storesLegal ref .dcw line index s).inv hs
  | dcaEnd line index => exact fun s hs => (applyEnd_storesLegal ref .dca line index s).inv hs
  | pitchEnd line index => exact fun s hs => (applyEnd_storesLegal ref .pitch line index s).inv hs
  | _ => exact keepsInv_id

/-- Settles O58: a step idles or runs one instruction, and the effect of every instruction keeps the invariant. -/
theorem stepKeepsInv : Obligations.StepKeepsInv := by
  intro s t hs h
  cases hstim : s.stimulus with
  | nil =>
    rw [step_nil hstim] at h
    cases h
    exact hs
  | cons e rest =>
    rw [step_cons hstim, exec_eq_engineExec] at h
    cases h
    exact engineExec_keepsInv (decode e) s.toEngine hs

end Sys2Proof.Machine
end

section
/-! SUPPORT. The host's side of the state (20_memory.md R80, R81; 60_exceptions.md R417, R418): the host's operations put nothing but
that side in another state, and an operation of the engine commutes with every such replacement, but at a block boundary. -/

namespace Sys2Proof.Machine

variable {N Post : Type} {P : Config.Params N Post}

/-! ## The host's side -/

/-- SHADOW, PENDING, PENDING_VALID and CMDQ: what the engine reads at a block boundary only. -/
structure HostSide where
  /-- SHADOW (R29). -/
  shadow : Bank
  /-- PENDING (R29). -/
  pending : Bank
  /-- PENDING_VALID (R29). -/
  pendingValid : Bool
  /-- CMDQ (R27). -/
  cmdq : List Rec

/-- The host's side of a state. -/
def hostSide (s : Engine N Post) : HostSide :=
  { shadow := s.shadow, pending := s.pending, pendingValid := s.pendingValid, cmdq := s.cmdq }

/-- A state with its host's side replaced. -/
def withHost (h : HostSide) (s : Engine N Post) : Engine N Post :=
  { s with shadow := h.shadow, pending := h.pending, pendingValid := h.pendingValid, cmdq := h.cmdq }

/-- The host's side that `engineView` shows in place of the state's own. -/
def HostSide.blank : HostSide := { shadow := [], pending := [], pendingValid := false, cmdq := [] }

@[simp] theorem withHost_hostSide (s : Engine N Post) : withHost (hostSide s) s = s := rfl
@[simp] theorem hostSide_withHost (h : HostSide) (s : Engine N Post) : hostSide (withHost h s) = h := rfl
@[simp] theorem withHost_withHost (h h' : HostSide) (s : Engine N Post) : withHost h (withHost h' s) = withHost h s := rfl
@[simp] theorem withHost_active (h : HostSide) (s : Engine N Post) : (withHost h s).active = s.active := rfl

theorem engineView_eq_iff {s s' : State} :
    engineView s = engineView s' ↔ withHost .blank s.toEngine = withHost .blank s'.toEngine ∧ s.stimulus = s'.stimulus :=
  Iff.of_eq (State.mk.injEq ..)

/-- Of two states with one view, the second is the first but for the host's side. -/
theorem toEngine_eq_of_engineView_eq {s s' : State} (h : engineView s = engineView s') :
    s'.toEngine = withHost (hostSide s'.toEngine) s.toEngine := by
  obtain ⟨hblank, -⟩ := engineView_eq_iff.1 h
  calc s'.toEngine = withHost (hostSide s'.toEngine) (withHost .blank s'.toEngine) := rfl
    _ = withHost (hostSide s'.toEngine) s.toEngine := by rw [← hblank, withHost_withHost]

/-! ## The host's operations (R300-R302) -/

theorem writeShadow_eq_withHost (a : ParamAddr) (d : ParamWord) (s : Engine N Post) :
    writeShadow P a d s = withHost (hostSide (writeShadow P a d s)) s := by
  unfold writeShadow
  split <;> rfl

theorem pushRecord_eq_withHost (r : Rec) (s : Engine N Post) :
    pushRecord P r s = withHost (hostSide (pushRecord P r s)) s := by
  unfold pushRecord
  split <;> rfl

/-- A host operation replaces the host's side and does nothing else. -/
theorem engineExec_host {i : Instr} (hi : IsHostOp i) (s : Engine N Post) :
    engineExec P i s = withHost (hostSide (engineExec P i s)) s := by
  obtain ⟨a, d, rfl⟩ | rfl | ⟨r, rfl⟩ := hi
  · exact writeShadow_eq_withHost a d s
  · rfl
  · exact pushRecord_eq_withHost r s

/-! ## Operations that do not see the host's side -/

/-- `f` neither reads nor writes the host's side: it commutes with every replacement of it. -/
def BlindToHost (f : Engine N Post → Engine N Post) : Prop := ∀ h s, f (withHost h s) = withHost h (f s)

theorem blindToHost_id : BlindToHost (id : Engine N Post → Engine N Post) := fun _ _ => rfl

/-- One operation after another. -/
theorem BlindToHost.comp {f g : Engine N Post → Engine N Post} (hf : BlindToHost f) (hg : BlindToHost g) :
    BlindToHost fun s => g (f s) :=
  fun h s => (congrArg g (hf h s)).trans (hg h (f s))

/-- One operation or the other, by a question that the host's side does not answer. -/
theorem BlindToHost.cond {c : Engine N Post → Bool} {f g : Engine N Post → Engine N Post}
    (hc : ∀ h s, c (withHost h s) = c s) (hf : BlindToHost f) (hg : BlindToHost g) :
    BlindToHost fun s => if c s then f s else g s := by
  intro h s
  simp only [hc h s]
  split
  · exact hf h s
  · exact hg h s

/-! ### The allocator (R262-R268) -/

theorem stealSelect_withHost (h : HostSide) (s : Engine N Post) :
    stealSelect P (withHost h s) = ((stealSelect P s).1, withHost h (stealSelect P s).2) := by
  have hlimited : limitedVoices P (withHost h s) = limitedVoices P s := rfl
  have holdest : oldestSlot P (withHost h s) = oldestSlot P s := rfl
  unfold stealSelect
  rw [hlimited, holdest, withHost_active]
  split
  · split <;> rfl
  · rfl

theorem allocSelect_withHost (h : HostSide) (s : Engine N Post) (n : Note) :
    allocSelect P (withHost h s) n = ((allocSelect P s n).1, withHost h (allocSelect P s n).2) := by
  have hretrigger : retriggerSlot P (withHost h s) n = retriggerSlot P s n := rfl
  have hfree : freeSlot P (withHost h s) = freeSlot P s := rfl
  unfold allocSelect
  rw [hretrigger, hfree, stealSelect_withHost]
  split
  · rfl
  · split <;> rfl

theorem allocNoteOn_blind (n : Note) (vel : N) : BlindToHost fun s => allocNoteOn P s n vel := by
  intro h s
  simp only [allocNoteOn, allocSelect_withHost]
  rfl

theorem releaseNote_blind (n : Note) : BlindToHost fun s => releaseNote P s n := by
  intro h s
  have hslot : noteOffSlot P (withHost h s) n = noteOffSlot P s n := rfl
  simp only [releaseNote, hslot]
  split <;> rfl

theorem allocNoteOff_blind (n : Note) : BlindToHost fun s => allocNoteOff P s n :=
  (releaseNote_blind n).comp (g := fun s => receiveEvent s (.noteOff n)) fun _ _ => rfl

/-! ### The arpeggiator (R341-R363) -/

theorem selectStep_withHost (h : HostSide) (s : Engine N Post) (len : Nat) :
    selectStep P (withHost h s) len = ((selectStep P s len).1, withHost h (selectStep P s len).2) := by
  unfold selectStep
  rw [withHost_active]
  split <;> rfl

theorem startLength_blind : BlindToHost (startLength P) := fun _ _ => rfl

/-- The note is chosen and the draw taken alike, and `Alloc.noteOn` plays it alike. -/
theorem arpFire_blind : BlindToHost (arpFire P) := by
  intro h s
  have hbuffer : noteBuffer P (withHost h s).active (withHost h s).held = noteBuffer P s.active s.held := rfl
  simp only [arpFire, hbuffer, selectStep_withHost]
  exact congrArg (fun t : Engine N Post => { t with arpGateOpen := true })
    (allocNoteOn_blind (P := P) (nextNote P s) P.arpFixedVel h
      { (selectStep P s (noteBuffer P s.active s.held).length).2 with arpNote := nextNote P s })

theorem arpGateClose_blind : BlindToHost (arpGateClose P) := by
  refine BlindToHost.cond (c := fun s => s.arpGateOpen) (fun _ _ => rfl) (fun h s => ?_) blindToHost_id
  exact congrArg (fun t : Engine N Post => { t with arpGateOpen := false }) (allocNoteOff_blind s.arpNote h s)

theorem arpStop_blind : BlindToHost (arpStop P) :=
  arpGateClose_blind.comp (g := fun s => { s with arpRun := false }) fun _ _ => rfl

theorem arpStepEnd_blind : BlindToHost (arpStepEnd P) := by
  have htake : BlindToHost fun s : Engine N Post => { s with arpAcc := letI := P.num; s.arpAcc - s.arpLen } := fun _ _ => rfl
  have hnext : BlindToHost fun s : Engine N Post => { s with arpStep := s.arpStep + 1 } := fun _ _ => rfl
  exact BlindToHost.cond (fun _ _ => rfl)
    ((((htake.comp arpGateClose_blind).comp hnext).comp startLength_blind).comp arpFire_blind) blindToHost_id

theorem arpGateEnd_blind : BlindToHost (arpGateEnd P) :=
  BlindToHost.cond (c := fun s => s.arpGateOpen && decide (arpGateFraction P s.active < 1) && gateOver P s)
    (fun _ _ => rfl) arpGateClose_blind blindToHost_id

theorem arpTick_blind : BlindToHost (arpTick P) := by
  have hcount : BlindToHost fun s : Engine N Post => { s with arpAcc := letI := P.num; s.arpAcc + numOf P 1 } := fun _ _ => rfl
  exact BlindToHost.cond (c := fun s => s.arpRun) (fun _ _ => rfl) ((arpStepEnd_blind.comp arpGateEnd_blind).comp hcount)
    blindToHost_id

theorem arpStart_blind : BlindToHost (arpStart P) := by
  have hstart : BlindToHost fun s : Engine N Post =>
      { s with arpRun := true, arpAcc := numOf P 0, arpStep := 0, arpIdx := 0, arpDir := .plus } := fun _ _ => rfl
  exact (hstart.comp startLength_blind).comp arpFire_blind

theorem arpKeyDown_blind (n : Note) : BlindToHost fun s => arpKeyDown P s n := by
  have hhold : BlindToHost fun s : Engine N Post => { s with held := s.held ++ [n] } := fun _ _ => rfl
  exact BlindToHost.cond (c := fun s => s.held.contains n || decide (s.held.length = P.heldMax)) (fun _ _ => rfl)
    blindToHost_id (BlindToHost.cond (c := fun s => s.held.isEmpty) (fun _ _ => rfl) (hhold.comp arpStart_blind) hhold)

theorem arpKeyUp_blind (n : Note) : BlindToHost fun s => arpKeyUp P s n := by
  have hdrop : BlindToHost fun s : Engine N Post => { s with held := s.held.filter fun x => x != n } := fun _ _ => rfl
  exact BlindToHost.cond (c := fun s => s.held.contains n) (fun _ _ => rfl)
    (hdrop.comp (BlindToHost.cond (c := fun s => s.held.isEmpty) (fun _ _ => rfl) arpStop_blind blindToHost_id)) blindToHost_id

/-! ### Note events (R260, R261) -/

theorem keyDown_blind (n : Note) (vel : Code) : BlindToHost (keyDown P n vel) :=
  BlindToHost.cond (c := fun s => arpOn P s.active) (fun _ _ => rfl) (arpKeyDown_blind n) (allocNoteOn_blind n _)

theorem keyUp_blind (n : Note) : BlindToHost (keyUp P n) :=
  BlindToHost.cond (c := fun s => arpOn P s.active) (fun _ _ => rfl) (arpKeyUp_blind n) (allocNoteOff_blind n)

/-! ### The sample step inside a block (R391) -/

theorem renderVoices_blind : BlindToHost (renderVoices P) := by
  intro h s
  have hrender : voiceRender P (withHost h s) = voiceRender P s := rfl
  simp only [renderVoices, hrender]
  rfl

/-- What a sample step does where no block begins. -/
theorem sampleStep_inside {s : Engine N Post} (hs : atBoundary P s = false) :
    sampleStep P s = advanceTime (renderVoices P (arpTick P s)) := by
  rw [sampleStep, if_neg (by simp [hs])]

theorem sampleStep_withHost (h : HostSide) {s : Engine N Post} (hs : atBoundary P s = false) :
    sampleStep P (withHost h s) = withHost h (sampleStep P s) := by
  have hblind : BlindToHost fun s => advanceTime (renderVoices P (arpTick P s)) :=
    (arpTick_blind.comp renderVoices_blind).comp fun _ _ => rfl
  have hs' : atBoundary P (withHost h s) = false := hs
  rw [sampleStep_inside hs, sampleStep_inside hs']
  exact hblind h s

/-- `n` sample steps, none of which begins a block. -/
theorem sampleSteps_withHost (h : HostSide) (n : Nat) {s : Engine N Post}
    (hs : ∀ k < n, atBoundary P (sampleSteps P k s) = false) :
    sampleSteps P n (withHost h s) = withHost h (sampleSteps P n s) := by
  induction n generalizing s with
  | zero => rfl
  | succ n ih =>
    have hfirst : atBoundary P s = false := hs 0 n.succ_pos
    rw [sampleSteps, sampleSteps, sampleStep_withHost h hfirst]
    exact ih fun k hk => hs (k + 1) (Nat.succ_lt_succ hk)

/-- `n` samples that start after a block's first one and end by the block's end: no step of them begins a block. -/
theorem atBoundary_sampleSteps_inside {s : RefEngine} {n : Nat} (hpos : s.time.toNat % 64 ≠ 0)
    (hend : s.time.toNat % 64 + n ≤ 64) :
    ∀ k < n, atBoundary ref (sampleSteps ref k s) = false := by
  intro k hk
  have hmod : (s.time.toNat + k % 2 ^ 64) % 2 ^ 64 % 64 ≠ 0 := by omega
  simpa [atBoundary, sampleSteps_time] using hmod

/-! ## Every operation of the engine -/

/-- An instruction that is neither a record, an operation of the host nor TICK. -/
theorem engineExec_blind {i : Instr} (hhost : ¬IsHostOp i) (hrec : i.isRecord = false) (htick : ∀ c, i ≠ .tick c) :
    BlindToHost (engineExec P i) :=
  match i, hrec with
  | .noteOn note vel, _ => keyDown_blind note vel
  | .noteOff note, _ => keyUp_blind note
  | .paramWrite a d, _ => absurd (.inl ⟨a, d, rfl⟩) hhost
  | .snapPublish, _ => absurd (.inr (.inl rfl)) hhost
  | .cmdPush r, _ => absurd (.inr (.inr ⟨r, rfl⟩)) hhost
  | .tick c, _ => absurd rfl (htick c)
  | .allNotesOff, _ | .setModwheel _, _ | .setAftertouch _, _ | .setPitchbend _, _ | .setLfo _, _ => fun _ _ => rfl
  | .nop, _ | .reserved7, _ | .reservedC, _ | .reservedD, _ | .reservedE, _ => blindToHost_id

/-- An operation of the engine that meets no block boundary commutes with every replacement of the host's side. -/
theorem engineExec_withHost (h : HostSide) {i : Instr} {s : RefEngine} (hhost : ¬IsHostOp i) (hrec : i.isRecord = false)
    (hinside : ∀ c, i = .tick c → c.toNat = 0 ∨ (s.time.toNat % 64 ≠ 0 ∧ s.time.toNat % 64 + c.toNat ≤ 64)) :
    engineExec ref i (withHost h s) = withHost h (engineExec ref i s) := by
  by_cases htick : ∃ c, i = .tick c
  · obtain ⟨c, rfl⟩ := htick
    refine sampleSteps_withHost h c.toNat ?_
    obtain hzero | ⟨hpos, hend⟩ := hinside c rfl
    · simp [hzero]
    · exact atBoundary_sampleSteps_inside hpos hend
  · exact engineExec_blind hhost hrec (not_exists.1 htick) h s

/-- Settles O56: a host operation replaces the host's side only, and inside a block an engine operation commutes with its
replacement: by the other state's side, which gives equal views, and by the state's own, which it so leaves in place. -/
theorem hostIsInvisibleInsideABlock : Obligations.HostIsInvisibleInsideABlock := by
  constructor
  · intro i s t hi ht
    rw [exec_eq_engineExec] at ht
    cases ht
    rw [engineView_eq_iff, onEngine_toEngine, engineExec_host hi, withHost_withHost]
    exact ⟨rfl, rfl⟩
  · intro i s s' t t' hhost hrec hinside hview ht ht'
    rw [exec_eq_engineExec] at ht ht'
    cases ht
    cases ht'
    have hcommutes : ∀ h, engineExec ref i (withHost h s.toEngine) = withHost h (engineExec ref i s.toEngine) :=
      fun h => engineExec_withHost h hhost hrec hinside
    obtain ⟨-, hstimulus⟩ := engineView_eq_iff.1 hview
    have hother : withHost .blank (engineExec ref i s.toEngine) = withHost .blank (engineExec ref i s'.toEngine) := by
      rw [toEngine_eq_of_engineView_eq hview, hcommutes, withHost_withHost]
    have hown : engineExec ref i s.toEngine = withHost (hostSide s.toEngine) (engineExec ref i s.toEngine) := by
      rw [← hcommutes, withHost_hostSide]
    have hkept : hostSide (engineExec ref i s.toEngine) = hostSide s.toEngine := by rw [hown, hostSide_withHost]
    obtain ⟨hshadow, hpending, hvalid, hcmdq⟩ := HostSide.mk.inj hkept
    exact ⟨engineView_eq_iff.2 ⟨hother, hstimulus⟩, hshadow, hpending, hvalid, hcmdq⟩

end Sys2Proof.Machine
end

section
/-! SUPPORT. No operation waits (20_memory.md R88). -/

namespace Sys2Proof.Machine

variable {N Post : Type} {P : Config.Params N Post}

/-- A push into a full FIFO is dropped (R302). -/
theorem pushRecord_full {s : Engine N Post} (h : P.cmdqCap ≤ s.cmdq.length) (r : Rec) : pushRecord P r s = s :=
  if_neg h.not_gt

/-- A publish on top of one that still waits replaces it (R301). -/
theorem publish_again {s : Engine N Post} (h : s.pendingValid = true) : publish s = { s with pending := s.shadow } := by
  rw [publish, ← h]

theorem onEngine_eq {s : State} {rule : RefEngine → RefEngine} {e : RefEngine} (h : rule s.toEngine = e) :
    s.onEngine rule = { s with toEngine := e } := by
  rw [State.onEngine, h]

/-- Settles O5: `exec` answers the effect of every instruction, and a step idles or runs one. -/
theorem everyOperationHasAStep : Obligations.EveryOperationHasAStep := by
  refine ⟨fun i s => ⟨_, exec_eq_engineExec i s⟩, fun s => ?_, fun r s h => ?_, fun s h => ?_⟩
  · cases hstim : s.stimulus with
    | nil => exact ⟨s, step_nil hstim⟩
    | cons e rest => exact ⟨_, (step_cons hstim).trans (exec_eq_engineExec _ _)⟩
  · rw [exec_eq_engineExec]
    exact congrArg Host.Outcome.next (onEngine_eq (pushRecord_full (P := ref) h.ge r))
  · rw [exec_eq_engineExec]
    exact congrArg Host.Outcome.next (onEngine_eq (publish_again h))

end Sys2Proof.Machine
end

section
/-! SUPPORT. The laws of the encoding (30_encoding.md R100-R115): the fields of a word and of a record are read back as they were
written, so decoding undoes encoding, as a word and as bytes. -/

namespace Sys2Proof

/-! ## Fields of a word and of a record -/

theorem opcode_opWord (op : BitVec 4) (payload : BitVec 60) : (opWord op payload).extractLsb' 60 4 = op :=
  BitVec.extractLsb'_append_eq_left

/-- A field below OP is a field of the payload. -/
theorem extractLsb'_opWord (op : BitVec 4) (payload : BitVec 60) {start len : Nat} (h : start + len ≤ 60) :
    (opWord op payload).extractLsb' start len = payload.extractLsb' start len :=
  BitVec.extractLsb'_append_eq_of_add_le h

section recordFields

variable (type : BitVec 4) (line : BitVec 2) (index : BitVec 4) (rate level : Code)

@[simp] theorem Rec.type_recordWord : Rec.type (recordWord type line index rate level) = type := by
  simp (disch := decide) only [Rec.type, recordWord, BitVec.extractLsb'_append_eq_of_add_le, BitVec.extractLsb'_eq_self]

@[simp] theorem Rec.line_recordWord : Rec.line (recordWord type line index rate level) = line := by
  simp (disch := decide) only [Rec.line, recordWord, BitVec.extractLsb'_append_eq_of_add_le,
    BitVec.extractLsb'_append_eq_left]

@[simp] theorem Rec.index_recordWord : Rec.index (recordWord type line index rate level) = index := by
  simp (disch := decide) only [Rec.index, recordWord, BitVec.extractLsb'_append_eq_of_add_le,
    BitVec.extractLsb'_append_eq_left]

@[simp] theorem Rec.rate_recordWord : Rec.rate (recordWord type line index rate level) = rate := by
  simp (disch := decide) only [Rec.rate, recordWord, BitVec.extractLsb'_append_eq_of_add_le,
    BitVec.extractLsb'_append_eq_left]

@[simp] theorem Rec.level_recordWord : Rec.level (recordWord type line index rate level) = level :=
  BitVec.extractLsb'_append_eq_left

end recordFields

/-! ## Decoding undoes encoding -/

/-- Decoding undoes encoding: OP or TYPE chooses the constructor, and each operand is cut out where it was put. -/
theorem decode_encode (i : Instr) : decode (encode i) = i := by
  cases i with
  | nop | allNotesOff | reserved7 | snapPublish | reservedC | reservedD | reservedE =>
    simp only [encode, decode, decodeWord, opcode_opWord, BitVec.ofNat_eq_ofNat, BitVec.reduceToNat]
  | noteOn | noteOff | setModwheel | setAftertouch | setPitchbend | paramWrite | cmdPush | setLfo | tick =>
    simp (disch := decide) only [encode, decode, decodeWord, opcode_opWord, BitVec.ofNat_eq_ofNat, BitVec.reduceToNat,
      extractLsb'_opWord, BitVec.extractLsb'_append_eq_of_add_le, BitVec.extractLsb'_append_eq_left,
      BitVec.extractLsb'_eq_self]
  | dcwStage | dcaStage | pitchStage | dcwSustain | dcaSustain | pitchSustain | dcwEnd | dcaEnd | pitchEnd
  | cmdReserved9 | cmdReserved10 | cmdReserved11 | cmdReserved12 | cmdReserved13 | cmdReserved14 | cmdReserved15 =>
    simp [encode, decode, decodeRecord]

/-- `isRecord` tells which of the two forms the encoding has. -/
theorem encode_form (i : Instr) :
    (i.isRecord = false ∧ ∃ w, encode i = .op w) ∨ (i.isRecord = true ∧ ∃ r, encode i = .cmd r) := by
  cases i with
  | nop | noteOn | noteOff | allNotesOff | setModwheel | setAftertouch | setPitchbend | reserved7 | paramWrite
  | snapPublish | cmdPush | setLfo | reservedC | reservedD | reservedE | tick => exact .inl ⟨rfl, _, rfl⟩
  | dcwStage | dcaStage | pitchStage | dcwSustain | dcaSustain | pitchSustain | dcwEnd | dcaEnd | pitchEnd
  | cmdReserved9 | cmdReserved10 | cmdReserved11 | cmdReserved12 | cmdReserved13 | cmdReserved14 | cmdReserved15 =>
    exact .inr ⟨rfl, _, rfl⟩

theorem decodeBytes_littleEndian (w : OpWord) (rest : List Byte) :
    decodeBytes (littleEndian 8 w.toNat ++ rest) = .ok (decodeWord w, rest) := by
  have hw : w.toNat % 256 ^ 8 = w.toNat := Nat.mod_eq_of_lt w.isLt
  simp only [decodeBytes, takeLittleEndian_littleEndian, hw, BitVec.ofNat_toNat, BitVec.setWidth_eq]

theorem decodeRecordBytes_littleEndian (r : Rec) (rest : List Byte) :
    decodeRecordBytes (littleEndian 6 r.toNat ++ rest) = .ok (decodeRecord r, rest) := by
  have hr : r.toNat % 256 ^ 6 = r.toNat := Nat.mod_eq_of_lt r.isLt
  simp only [decodeRecordBytes, takeLittleEndian_littleEndian, hr, BitVec.ofNat_toNat, BitVec.setWidth_eq]

/-- Settles O1: fields are read back as they were written, and the bytes of a word or a record give its bits back. -/
theorem decodeEncodeAgree : Obligations.DecodeEncodeAgree := by
  refine ⟨decode_encode, fun i rest h => ?_, fun i rest h => ?_⟩
  · obtain ⟨w, hw⟩ := ((encode_form i).resolve_right fun hr => by simp [h] at hr).2
    have hdecode : decodeWord w = i := by simpa only [hw, decode] using decode_encode i
    simp only [encodeBytes, hw, decodeBytes_littleEndian, hdecode]
  · obtain ⟨r, hr⟩ := ((encode_form i).resolve_left fun hw => by simp [h] at hw).2
    have hdecode : decodeRecord r = i := by simpa only [hr, decode] using decode_encode i
    simp only [encodeBytes, hr, decodeRecordBytes_littleEndian, hdecode]

end Sys2Proof
end

section
/-! SUPPORT. Ignored bits (30_encoding.md R113-R115): what a word or a record decodes to is encoded as its named bits, so two that
agree on these are one instruction; a reserved opcode or type has no effect. -/

namespace Sys2Proof.Machine

/-! ## Masked fields -/

section masks

variable {k : Nat} {x : BitVec k} {start m n : Nat}

/-- A mask written in two parts masks the two fields it stands over. -/
theorem field_and_append (a : BitVec m) (b : BitVec n) :
    x.extractLsb' start (m + n) &&& (a ++ b) = (x.extractLsb' (start + n) m &&& a) ++ (x.extractLsb' start n &&& b) := by
  rw [← BitVec.extractLsb'_append_extractLsb'_eq_extractLsb' rfl, BitVec.and_append]

/-- A mask of the low bits keeps the field there. -/
theorem field_and_low (x : BitVec k) (m n : Nat) :
    x.extractLsb' 0 (m + n) &&& (0#m ++ BitVec.allOnes n) = 0#m ++ x.extractLsb' 0 n := by
  rw [field_and_append, BitVec.and_zero, BitVec.and_allOnes]

end masks

/-! ## Words (R102-R109, R112) -/

/-- The payload of NOTE_ON: NOTE and VEL (R103). -/
theorem payload_and_noteOn (w : OpWord) :
    w.extractLsb' 0 60 &&& (0#28 ++ (BitVec.allOnes 16 ++ (0#9 ++ BitVec.allOnes 7))) =
      0#28 ++ (w.extractLsb' 16 16 ++ (0#9 ++ w.extractLsb' 0 7)) := by
  rw [field_and_append (m := 28) (n := 16 + (9 + 7)), field_and_append, field_and_low]
  simp only [BitVec.and_zero, BitVec.and_allOnes]

/-- The payload of PARAM_WRITE: ADDR and DATA (R107). -/
theorem payload_and_paramWrite (w : OpWord) :
    w.extractLsb' 0 60 &&& (0#18 ++ (BitVec.allOnes 10 ++ BitVec.allOnes 32)) =
      0#18 ++ (w.extractLsb' 32 10 ++ w.extractLsb' 0 32) := by
  rw [field_and_append (m := 18) (n := 10 + 32), field_and_append]
  simp only [BitVec.and_zero, BitVec.and_allOnes]

/-- The named bits of a word are OP and what the mask of its layout keeps of the payload: where the encoder writes these, encoding
the decoded word gives the named bits. -/
theorem encode_decodeWord_of_layout {w : OpWord} {op : Nat} {mask payload : BitVec 60}
    (hop : (w.extractLsb' 60 4).toNat = op) (hmask : namedBits w = opWord (BitVec.allOnes 4) mask)
    (hpayload : w.extractLsb' 0 60 &&& mask = payload)
    (hencode : encode (decodeWord w) = .op (opWord (.ofNat 4 op) payload)) :
    encode (decodeWord w) = .op (w &&& namedBits w) := by
  have hword : w.extractLsb' 0 (4 + 60) = w := BitVec.extractLsb'_eq_self
  have hall : w.extractLsb' (0 + 60) 4 &&& BitVec.allOnes 4 = .ofNat 4 op := by
    rw [BitVec.and_allOnes, ← hop, BitVec.ofNat_toNat, BitVec.setWidth_eq]
  have hparts : w.extractLsb' 0 (4 + 60) &&& (BitVec.allOnes 4 ++ mask) = BitVec.ofNat 4 op ++ payload := by
    rw [field_and_append, hall, hpayload]
  rw [hencode, hmask, opWord, opWord, ← hparts, hword]

/-- Encoding what a word decodes to gives the word's named bits, layout by layout. -/
theorem encode_decodeWord (w : OpWord) : encode (decodeWord w) = .op (w &&& namedBits w) := by
  match hop : (w.extractLsb' 60 4).toNat with
  | 0 | 3 | 7 | 9 | 12 | 13 | 14 =>
    exact encode_decodeWord_of_layout hop (by rw [namedBits, hop]; decide) (BitVec.and_zero (w := 60))
      (by rw [decodeWord, hop]; rfl)
  | 1 =>
    exact encode_decodeWord_of_layout hop (by rw [namedBits, hop]; decide) (payload_and_noteOn w)
      (by rw [decodeWord, hop]; rfl)
  | 2 =>
    exact encode_decodeWord_of_layout hop (by rw [namedBits, hop]; decide) (field_and_low w 53 7)
      (by rw [decodeWord, hop]; rfl)
  | 4 | 5 | 6 | 11 =>
    exact encode_decodeWord_of_layout hop (by rw [namedBits, hop]; decide) (field_and_low w 44 16)
      (by rw [decodeWord, hop]; rfl)
  | 8 =>
    exact encode_decodeWord_of_layout hop (by rw [namedBits, hop]; decide) (payload_and_paramWrite w)
      (by rw [decodeWord, hop]; rfl)
  | 10 =>
    exact encode_decodeWord_of_layout hop (by rw [namedBits, hop]; decide) (field_and_low w 12 48)
      (by rw [decodeWord, hop]; rfl)
  | 15 =>
    exact encode_decodeWord_of_layout hop (by rw [namedBits, hop]; decide) (field_and_low w 28 32)
      (by rw [decodeWord, hop]; rfl)
  | n + 16 => exact absurd (w.extractLsb' 60 4).isLt (by omega)

/-! ## Records (R110, R313-R318) -/

theorem and_recordWord (r : Rec) (type : BitVec 4) (line : BitVec 2) (index : BitVec 4) (rate level : Code) :
    r &&& recordWord type line index rate level =
      recordWord (Rec.type r &&& type) (Rec.line r &&& line) (Rec.index r &&& index) (Rec.rate r &&& rate)
        (Rec.level r &&& level) := by
  have hword : r.extractLsb' 0 (16 + (16 + (6 + (4 + (2 + 4))))) = r := BitVec.extractLsb'_eq_self
  have hparts : r.extractLsb' 0 (16 + (16 + (6 + (4 + (2 + 4))))) &&&
      (level ++ (rate ++ (0#6 ++ (index ++ (line ++ type))))) =
        (Rec.level r &&& level) ++ ((Rec.rate r &&& rate) ++
          (0#6 ++ ((Rec.index r &&& index) ++ ((Rec.line r &&& line) ++ (Rec.type r &&& type))))) := by
    simp only [field_and_append, BitVec.and_zero]
    rfl
  rwa [hword] at hparts

/-- A stage record names all but the reserved bits. -/
theorem and_stageMask (r : Rec) :
    r &&& 0xFFFFFFFF03FF#48 = recordWord (Rec.type r) (Rec.line r) (Rec.index r) (Rec.rate r) (Rec.level r) := by
  have hmask : 0xFFFFFFFF03FF#48 = recordWord (BitVec.allOnes 4) (BitVec.allOnes 2) (BitVec.allOnes 4)
      (BitVec.allOnes 16) (BitVec.allOnes 16) := by decide
  simp only [hmask, and_recordWord, BitVec.and_allOnes]

/-- A sustain or end record names TYPE, LINE and INDEX. -/
theorem and_pointMask (r : Rec) :
    r &&& 0x0000000003FF#48 = recordWord (Rec.type r) (Rec.line r) (Rec.index r) 0 0 := by
  have hmask : 0x0000000003FF#48 = recordWord (BitVec.allOnes 4) (BitVec.allOnes 2) (BitVec.allOnes 4) 0#16 0#16 := by
    decide
  simp only [hmask, and_recordWord, BitVec.and_allOnes, BitVec.and_zero]
  rfl

/-- A reserved record names TYPE alone. -/
theorem and_typeMask (r : Rec) : r &&& 0x00000000000F#48 = recordWord (Rec.type r) 0 0 0 0 := by
  have hmask : 0x00000000000F#48 = recordWord (BitVec.allOnes 4) 0#2 0#4 0#16 0#16 := by decide
  simp only [hmask, and_recordWord, BitVec.and_allOnes, BitVec.and_zero]
  rfl

theorem encode_decodeRecord_of_layout {r : Rec} {line : BitVec 2} {index : BitVec 4} {rate level : Code}
    {type : Nat} (htype : (Rec.type r).toNat = type)
    (hnamed : r &&& namedRecordBits r = recordWord (Rec.type r) line index rate level)
    (hencode : encode (decodeRecord r) = .cmd (recordWord (.ofNat 4 type) line index rate level)) :
    encode (decodeRecord r) = .cmd (r &&& namedRecordBits r) := by
  rw [hencode, hnamed, ← htype, BitVec.ofNat_toNat, BitVec.setWidth_eq]

/-- Encoding what a record decodes to gives the record's named bits, layout by layout. -/
theorem encode_decodeRecord (r : Rec) : encode (decodeRecord r) = .cmd (r &&& namedRecordBits r) := by
  match htype : (Rec.type r).toNat with
  | 0 | 1 | 2 =>
    exact encode_decodeRecord_of_layout htype (by rw [namedRecordBits, htype]; exact and_stageMask r)
      (by rw [decodeRecord, htype]; rfl)
  | 3 | 4 | 5 | 6 | 7 | 8 =>
    exact encode_decodeRecord_of_layout htype (by rw [namedRecordBits, htype]; exact and_pointMask r)
      (by rw [decodeRecord, htype]; rfl)
  | 9 | 10 | 11 | 12 | 13 | 14 | 15 =>
    exact encode_decodeRecord_of_layout htype (by rw [namedRecordBits, htype]; exact and_typeMask r)
      (by rw [decodeRecord, htype]; rfl)
  | n + 16 => exact absurd (Rec.type r).isLt (by omega)

/-- Settles O2: the encoder writes the named bits, and decoding undoes it, so the named bits determine the instruction. -/
theorem ignoredBitsDoNotMatter : Obligations.IgnoredBitsDoNotMatter := by
  refine ⟨encode_decodeWord, encode_decodeRecord, fun w w' s h => ?_, fun r r' s h => ?_⟩
  · have hinstr : decodeWord w = decodeWord w' := by
      rw [← decode_encode (decodeWord w), encode_decodeWord, h, ← encode_decodeWord, decode_encode]
    rw [hinstr]
  · have hinstr : decodeRecord r = decodeRecord r' := by
      rw [← decode_encode (decodeRecord r), encode_decodeRecord, h, ← encode_decodeRecord, decode_encode]
    rw [hinstr]

/-! ## Reserved opcodes and types (R113, R115) -/

/-- An instruction without an effect leaves the whole state. -/
theorem exec_of_engineExec_id {i : Instr} (h : engineExec ref i = id) (s : State) : exec i s = .next s := by
  rw [exec_eq_engineExec, h]
  rfl

/-- R113, R394: NOP and the reserved operation words leave the whole state. -/
theorem exec_nop {i : Instr} (hi : i ∈ [Instr.nop, .reserved7, .reservedC, .reservedD, .reservedE]) (s : State) :
    exec i s = .next s := by
  refine exec_of_engineExec_id ?_ s
  fin_cases hi <;> rfl

/-- R115: the reserved records leave the whole state. -/
theorem exec_cmdReserved {i : Instr} (hi : i ∈ [Instr.cmdReserved9, .cmdReserved10, .cmdReserved11, .cmdReserved12,
    .cmdReserved13, .cmdReserved14, .cmdReserved15]) (s : State) : exec i s = .next s := by
  refine exec_of_engineExec_id ?_ s
  fin_cases hi <;> rfl

theorem decodeWord_reserved {w : OpWord} (h : (w.extractLsb' 60 4).toNat ∈ [0x0, 0x7, 0xC, 0xD, 0xE]) :
    decodeWord w ∈ [Instr.nop, .reserved7, .reservedC, .reservedD, .reservedE] := by
  unfold decodeWord
  generalize (w.extractLsb' 60 4).toNat = op at h ⊢
  fin_cases h <;> simp

theorem decodeRecord_reserved {r : Rec} (h : 9 ≤ (Rec.type r).toNat) :
    decodeRecord r ∈ [Instr.cmdReserved9, .cmdReserved10, .cmdReserved11, .cmdReserved12, .cmdReserved13,
      .cmdReserved14, .cmdReserved15] := by
  unfold decodeRecord
  have hlt : (Rec.type r).toNat < 16 := (Rec.type r).isLt
  generalize (Rec.type r).toNat = type at h hlt ⊢
  interval_cases type <;> simp

/-- Settles O6: a reserved opcode or type decodes to an instruction without an effect. -/
theorem nopsChangeNothing : Obligations.NopsChangeNothing :=
  ⟨fun _ s h => exec_nop (decodeWord_reserved h) s, fun w s => everyOperationHasAStep.1 (decodeWord w) s,
    fun s _ hi => exec_nop hi s, fun _ s h => exec_cmdReserved (decodeRecord_reserved h) s,
    fun s _ hi => exec_cmdReserved hi s⟩

end Sys2Proof.Machine
end

section
/-! SUPPORT. The phase accumulator (41_oscillator.md R140, R141). -/

namespace Sys2Proof.Machine

/-! ## The accumulator (R140) -/

/-- The advanced phase is the exact sum modulo 2^32. -/
theorem acc_phase_toNat (ph : BitVec 32) (inc : BitVec 64) :
    (acc ph inc).1.toNat = (ph.toNat + inc.toNat) % 2 ^ 32 := BitVec.toNat_ofNat _ _

/-- The wrap flag says that the wrap count is at least 1. -/
theorem acc_wrap_iff (ph : BitVec 32) (inc : BitVec 64) :
    (acc ph inc).2 = true ↔ 1 ≤ (ph.toNat + inc.toNat) / 2 ^ 32 := decide_eq_true_iff

/-- An increment of two cycles or more wraps more than once. -/
theorem one_lt_accWraps {inc : BitVec 64} (ph : BitVec 32) (h : 2 ^ 33 ≤ inc.toNat) : 1 < accWraps ph inc := by
  unfold accWraps
  omega

/-- Increment 0 stands still. -/
theorem acc_zero (ph : BitVec 32) : acc ph 0 = (ph, false) := by
  refine Prod.ext (BitVec.eq_of_toNat_eq ?_) (decide_eq_false ?_)
  · exact (acc_phase_toNat ph 0).trans (Nat.mod_eq_of_lt ph.isLt)
  · simp [accWraps, ph.isLt]

theorem accWraps_oneCycle (ph : BitVec 32) : accWraps ph 0x100000000#64 = 1 := by
  have hph := ph.isLt
  have hinc : (0x100000000#64).toNat = 2 ^ 32 := rfl
  unfold accWraps
  omega

/-- An increment of one cycle comes back to the same phase, with a wrap. -/
theorem acc_oneCycle (ph : BitVec 32) : acc ph 0x100000000#64 = (ph, true) := by
  have hinc : (0x100000000#64).toNat = 2 ^ 32 := rfl
  refine Prod.ext (BitVec.eq_of_toNat_eq ?_) (decide_eq_true (accWraps_oneCycle ph).ge)
  rw [acc_phase_toNat, hinc, Nat.add_mod_right]
  exact Nat.mod_eq_of_lt ph.isLt

/-! ## The real phase and increment (R141) -/

theorem phaseOf_eq (ph : BitVec 32) : phaseOf ph = (ph.toNat : ℚ) / 2 ^ 32 := by
  unfold phaseOf
  norm_cast

theorem phaseOf_bounds (ph : BitVec 32) : 0 ≤ phaseOf ph ∧ phaseOf ph < 1 := by
  have hph : (ph.toNat : ℚ) < 2 ^ 32 := by exact_mod_cast ph.isLt
  rw [phaseOf_eq]
  exact ⟨by positivity, (div_lt_one (by positivity)).2 hph⟩

theorem incrementOf_eq (inc : BitVec 64) : incrementOf inc = (inc.toNat : ℚ) / 2 ^ 32 := by
  unfold incrementOf
  norm_cast

/-- Settles O26: the sum, its wraps, the corner cases and the example. -/
theorem phaseAccumulator : Obligations.PhaseAccumulator :=
  ⟨fun ph inc => ⟨acc_phase_toNat ph inc, acc_wrap_iff ph inc, rfl, one_lt_accWraps ph⟩,
    fun ph => ⟨phaseOf_eq ph, phaseOf_bounds ph⟩, incrementOf_eq,
    fun ph => ⟨acc_zero ph, acc_oneCycle ph, accWraps_oneCycle ph⟩, by decide⟩

end Sys2Proof.Machine
end

section
/-! SUPPORT. The sine lookup and the warps: the shape of SIN over the reals, and that the lookup and the warps of the
configuration that runs denote the real ones at every number, for the fractional part that they take always has bounds
(41_oscillator.md R143-R152). -/

namespace Sys2Proof.Machine

/-! ## Fractional parts have bounds -/

theorem hasBounds_of_exactSplit {x y : Exact} (h : (exactSplit x).2 = some y) (hy : HasBounds y) : HasBounds x := by
  fun_cases exactSplit x <;> simp_all [exactSplit]

/-- An expression of the form `q + c * 2 ^ e` has bounds. -/
theorem hasBounds_of_exactExp2 {x : Exact} {y : ℚ × Exp2} (h : exactExp2 x = some y) : HasBounds x := by
  unfold exactExp2 at h
  split at h
  · next e he => exact hasBounds_of_exactSplit he (by simp)
  · next c e he => exact hasBounds_of_exactSplit he (by simp)
  · cases h

/-- An expression whose floor is found has bounds. -/
theorem hasBounds_of_exactFloorKnown {x : Exact} {n : Int} (h : exactFloorKnown x = some n) : HasBounds x := by
  unfold exactFloorKnown at h
  split at h
  · exact hasBounds_rat _
  · split at h
    · next y hy => exact hasBounds_of_exactExp2 hy
    · split at h
      · next b hb => exact Option.isSome_iff_exists.2 ⟨b, hb⟩
      · cases h

/-- A fractional part has bounds: either the floor is found, or it stays a `frac`, which lies in [0, 1]. -/
theorem hasBounds_exactFrac (x : Exact) : HasBounds (exactFrac x) := by
  unfold exactFrac
  split
  · next n hn => exact (hasBounds_of_exactFloorKnown hn).addRat _
  · exact hasBounds_frac x

/-! ## The lookup and the warps of the configuration that runs denote the real ones -/

theorem sineOf_denotes (x : Exact) : (sineOf ref x).toReal = sineOf realRef x.toReal := by
  have hu : HasBounds (exactMul (exactFrac x) (.rat 2048)) := (hasBounds_exactFrac x).exactMul (hasBounds_rat _)
  refine (ref_atFloor (x := letI := ref.num; ref.num.frac x * ref.num.ofRat ref.tableSize) hu _).trans ?_
  simp only [sineOf, sineLookup, ref_add, ref_sub, ref_mul, ref_frac, ref_ofRat, ref_tableSize, ref_sineTable,
    exactSinTurn_toReal, realRef_atFloor, realRef_add, realRef_sub, realRef_mul, realRef_frac, realRef_ofRat,
    realRef_tableSize, realRef_sineTable]

theorem resoPhase_denotes (n : Nat) (p : Exact) :
    (resoPhase ref.num ref.toTables n p).toReal = resoPhase realRef.num realRef.toTables n p.toReal := by
  have hsine (x : Exact) :
      (sineLookup ref.num ref.toTables x).toReal = sineLookup realRef.num realRef.toTables x.toReal := sineOf_denotes x
  simp only [resoPhase, hsine, ref_frac, ref_add, ref_mul, ref_resoAmp, ref_resoMult, toReal_rat, realRef_frac,
    realRef_add, realRef_mul, realRef_resoAmp, realRef_resoMult]

theorem warp_denotes (w : Wave) (p : Exact) : (warp ref w p).toReal = warp realRef w p.toReal := by
  cases w with
  | saw => exact warpSaw_toReal p
  | square => exact warpSquare_toReal p
  | pulse => exact warpPulse_toReal p
  | dsine => exact warpDsine_toReal p
  | reso1 => exact (warpSaw_toReal _).trans (congrArg _ (resoPhase_denotes 1 p))
  | reso2 => exact (warpSquare_toReal _).trans (congrArg _ (resoPhase_denotes 2 p))
  | reso3 => exact (warpPulse_toReal _).trans (congrArg _ (resoPhase_denotes 3 p))

theorem warpedPhase_denotes (w : Wave) (p d : Exact) :
    (warpedPhase ref w p d).toReal = warpedPhase realRef w p.toReal d.toReal := by
  rw [warpedPhase, blendPhase_toReal, warp_denotes, warpedPhase]

/-! ## The sine table (R54) -/

/-- The sine at entry k of the table, for every integer k. -/
noncomputable def tableSine (k : Int) : ℝ := Real.sin (2 * Real.pi * k / 2048)

theorem tableSine_natCast (k : Nat) : tableSine k = Real.sin (2 * Real.pi * k / 2048) := by
  rw [tableSine, Int.cast_natCast]

theorem realRef_sineTable_eq (k : Nat) : realRef.sineTable k = tableSine k := by
  rw [realRef_sineTable, tableSine]
  congr 1
  push_cast
  ring

/-- The table's period is a whole turn. -/
theorem tableSine_add_period (k m : Int) : tableSine (k + 2048 * m) = tableSine k := by
  have hturn : 2 * Real.pi * ((k + 2048 * m : Int) : ℝ) / 2048 = 2 * Real.pi * k / 2048 + m * (2 * Real.pi) := by
    push_cast
    ring
  rw [tableSine, hturn, Real.sin_add_int_mul_two_pi, tableSine]

/-- Half a turn on, the sine changes its sign. -/
theorem tableSine_add_half (k : Int) : tableSine (k + 1024) = -tableSine k := by
  have hturn : 2 * Real.pi * ((k + 1024 : Int) : ℝ) / 2048 = 2 * Real.pi * k / 2048 + Real.pi := by
    push_cast
    ring
  rw [tableSine, hturn, Real.sin_add_pi, tableSine]

theorem tableSine_mod (k : Nat) : tableSine (k % 2048 : Nat) = tableSine k := by
  have hsplit : (k : Int) = (k % 2048 : Nat) + 2048 * (k / 2048 : Nat) := by omega
  rw [hsplit, tableSine_add_period]

/-! ## The interpolation (R143) -/

/-- The broken line through the table's entries, at z entries from the first. -/
noncomputable def tableLine (z : ℝ) : ℝ :=
  tableSine ⌊z⌋ + Int.fract z * (tableSine (⌊z⌋ + 1) - tableSine ⌊z⌋)

theorem tableLine_add {u : ℝ} (h0 : 0 ≤ u) (h1 : u < 1) (k : Int) :
    tableLine (k + u) = tableSine k + u * (tableSine (k + 1) - tableSine k) := by
  have hfloor : ⌊(k : ℝ) + u⌋ = k := by
    rw [Int.floor_intCast_add, Int.floor_eq_zero_iff.2 ⟨h0, h1⟩, add_zero]
  rw [tableLine, Int.fract, hfloor, add_sub_cancel_left]

theorem tableLine_add_period (z : ℝ) : tableLine (z + 2048) = tableLine z := by
  have hperiod (k : Int) : tableSine (k + 2048) = tableSine k := tableSine_add_period k 1
  simp only [tableLine, Int.floor_add_ofNat, Int.fract_add_ofNat, add_right_comm _ (2048 : Int), hperiod]

theorem tableLine_add_half (z : ℝ) : tableLine (z + 1024) = -tableLine z := by
  simp only [tableLine, Int.floor_add_ofNat, Int.fract_add_ofNat, add_right_comm _ (1024 : Int), tableSine_add_half]
  ring

/-- A point of the line between two entries lies between their bounds. -/
theorem tableLine_bounds (z : ℝ) : -1 ≤ tableLine z ∧ tableLine z ≤ 1 := by
  have hentry (k : Int) : -1 ≤ tableSine k ∧ tableSine k ≤ 1 := ⟨Real.neg_one_le_sin _, Real.sin_le_one _⟩
  obtain ⟨hlo0, hhi0⟩ := hentry ⌊z⌋
  obtain ⟨hlo1, hhi1⟩ := hentry (⌊z⌋ + 1)
  have hu0 := Int.fract_nonneg z
  have hu1 := (Int.fract_lt_one z).le
  unfold tableLine
  constructor <;> nlinarith

/-- A phase within a turn is a whole number of entries and a part of one. -/
theorem exists_tableEntry (x : ℝ) :
    ∃ (i : Nat) (u : ℝ), i < 2048 ∧ 0 ≤ u ∧ u < 1 ∧ Int.fract x * 2048 = (i : ℝ) + u := by
  have hy0 : 0 ≤ Int.fract x * 2048 := mul_nonneg (Int.fract_nonneg x) (by norm_num)
  have hy1 : Int.fract x * 2048 < (2048 : Nat) := by
    push_cast
    linarith [Int.fract_lt_one x]
  have hle := Nat.floor_le hy0
  have hlt := Nat.lt_floor_add_one (Int.fract x * 2048)
  exact ⟨⌊Int.fract x * 2048⌋₊, Int.fract x * 2048 - ⌊Int.fract x * 2048⌋₊, (Nat.floor_lt hy0).2 hy1,
    by linarith, by linarith, by ring⟩

/-- SIN interpolates between entry i and the one after it, which for the last entry is the first. -/
theorem sineOf_realRef_between {x u : ℝ} {i : Nat} (h0 : 0 ≤ u) (h1 : u < 1) (h : Int.fract x * 2048 = (i : ℝ) + u) :
    sineOf realRef x = tableSine i + u * (tableSine ((i + 1) % 2048 : Nat) - tableSine i) := by
  have hfloor : ⌊(i : ℝ) + u⌋ = i := by
    rw [Int.floor_natCast_add, Int.floor_eq_zero_iff.2 ⟨h0, h1⟩, add_zero]
  have hpos : Int.fract x * ((2048 : Nat) : ℚ) = (i : ℝ) + u := by rw [← h]; norm_num
  simp only [sineOf, sineLookup, realRef_atFloor, realRef_add, realRef_sub, realRef_mul, realRef_frac, realRef_ofRat,
    realRef_tableSize, realRef_sineTable_eq, hpos, hfloor, Int.toNat_natCast]
  push_cast
  ring

/-- SIN is the broken line, at 2048 entries a turn. -/
theorem sineOf_realRef (x : ℝ) : sineOf realRef x = tableLine (2048 * x) := by
  obtain ⟨i, u, -, h0, h1, h⟩ := exists_tableEntry x
  have hpos : 2048 * x = ((i + 2048 * ⌊x⌋ : Int) : ℝ) + u := by
    push_cast
    linarith [Int.floor_add_fract x]
  have hnext : (i : Int) + 2048 * ⌊x⌋ + 1 = (i + 1 : Nat) + 2048 * ⌊x⌋ := by
    push_cast
    ring
  rw [sineOf_realRef_between h0 h1 h, hpos, tableLine_add h0 h1, hnext, tableSine_add_period, tableSine_add_period,
    tableSine_mod]

/-! ## The shape of SIN (R143) -/

theorem sineOf_bounds (x : ℝ) : -1 ≤ sineOf realRef x ∧ sineOf realRef x ≤ 1 := by
  rw [sineOf_realRef]
  exact tableLine_bounds _

theorem sineOf_add_one (x : ℝ) : sineOf realRef (x + 1) = sineOf realRef x := by
  rw [sineOf_realRef, mul_add, mul_one, tableLine_add_period, ← sineOf_realRef]

theorem sineOf_add_half (x : ℝ) : sineOf realRef (x + 1 / 2) = -sineOf realRef x := by
  have hhalf : 2048 * (x + 1 / 2) = 2048 * x + 1024 := by ring
  rw [sineOf_realRef, hhalf, tableLine_add_half, ← sineOf_realRef]

/-- SIN is the sine itself at the table's phases. -/
theorem sineOf_tablePhase (k : Int) : sineOf realRef (k / 2048) = Real.sin (2 * Real.pi * k / 2048) := by
  have hpos : (2048 : ℝ) * (k / 2048) = k + 0 := by ring
  rw [sineOf_realRef, hpos, tableLine_add le_rfl one_pos, zero_mul, add_zero, tableSine]

theorem sineOf_zero : sineOf realRef 0 = 0 := by
  simpa using sineOf_tablePhase 0

theorem sineOf_quarter : sineOf realRef (1 / 4) = 1 := by
  have hphase : (1 / 4 : ℝ) = (512 : Int) / 2048 := by norm_num
  have hangle : 2 * Real.pi * ((512 : Int) : ℝ) / 2048 = Real.pi / 2 := by
    push_cast
    ring
  rw [hphase, sineOf_tablePhase, hangle, Real.sin_pi_div_two]

theorem sineOf_half : sineOf realRef (1 / 2) = 0 := by
  simpa [sineOf_zero] using sineOf_add_half 0

theorem sineOf_threeQuarters : sineOf realRef (3 / 4) = -1 := by
  have h := sineOf_add_half (1 / 4)
  rw [sineOf_quarter] at h
  rw [← h]
  norm_num

/-- Settles O27: SIN is the broken line through the sines of the table. -/
theorem sineLookupShape : Obligations.SineLookupShape := by
  refine ⟨fun k => ?_, fun x => ?_, fun x => ?_, sineOf_zero, sineOf_quarter, sineOf_half, sineOf_threeQuarters,
    sineOf_denotes⟩
  · have hreal := (realRef_sineTable_eq k).trans (tableSine_natCast k)
    exact ⟨hreal, (exactSinTurn_toReal _).trans hreal⟩
  · obtain ⟨i, u, hi, h0, h1, h⟩ := exists_tableEntry x
    exact ⟨i, u, hi, h0, h1, h, by simpa only [tableSine_natCast] using sineOf_realRef_between h0 h1 h⟩
  · obtain ⟨hlo, hhi⟩ := sineOf_bounds x
    exact ⟨hlo, hhi, sineOf_add_one x, sineOf_add_half x⟩

end Sys2Proof.Machine
end

section
/-! SUPPORT. The warp functions over the reals, in numbers (41_oscillator.md R145-R152). -/

namespace Sys2Proof.Machine

/-! ## The pieces of each warp (R146-R149) -/

theorem warp_saw (p : ℝ) : warp realRef .saw p = 1 / 4 + p / 2 := by
  change ((1 / 4 : ℚ) : ℝ) + p / ((2 : ℚ) : ℝ) = _
  push_cast
  rfl

/-- The square's warp: one piece from each edge on. -/
theorem warp_square (p : ℝ) : warp realRef .square p = if 1 / 2 ≤ p then 5 / 8 + (p - 1 / 2) / 2 else 1 / 8 + p / 2 := by
  change (if ((1 / 2 : ℚ) : ℝ) ≤ p then ((5 / 8 : ℚ) : ℝ) + (p - (1 / 2 : ℚ)) / (2 : ℚ)
    else ((1 / 8 : ℚ) : ℝ) + p / (2 : ℚ)) = _
  push_cast
  rfl

/-- The pulse's warp: one piece from each edge on. -/
theorem warp_pulse (p : ℝ) : warp realRef .pulse p = if 1 / 4 ≤ p then 5 / 8 + (p - 1 / 4) / 3 else 1 / 8 + p := by
  change (if ((1 / 4 : ℚ) : ℝ) ≤ p then ((5 / 8 : ℚ) : ℝ) + (p - (1 / 4 : ℚ)) / (3 : ℚ)
    else ((1 / 8 : ℚ) : ℝ) + p) = _
  push_cast
  rfl

theorem warp_dsine (p : ℝ) : warp realRef .dsine p = Int.fract (2 * p) := by
  change Int.fract (((2 : ℚ) : ℝ) * p) = _
  push_cast
  rfl

/-! ## The resonance waves (R150-R152) -/

/-- The phase of resonance wave n, whose perturbation runs m = n + 1 times as fast. -/
theorem resoPhase_realRef {n : Nat} {m : ℝ} (hm : (n : ℝ) + 1 = m) (p : ℝ) :
    resoPhase realRef.num realRef.toTables n p = Int.fract (p + 1 / 8 * sineOf realRef (Int.fract (m * p))) := by
  change Int.fract (p + ((1 / 8 : ℚ) : ℝ) * sineOf realRef (Int.fract ((((n : ℚ) + 1 : ℚ) : ℝ) * p))) = _
  push_cast
  rw [hm]

theorem warp_reso1 (p : ℝ) : warp realRef .reso1 p =
    warp realRef .saw (Int.fract (p + 1 / 8 * sineOf realRef (Int.fract (2 * p)))) :=
  congrArg (warp realRef .saw) (resoPhase_realRef (n := 1) (by norm_num) p)

theorem warp_reso2 (p : ℝ) : warp realRef .reso2 p =
    warp realRef .square (Int.fract (p + 1 / 8 * sineOf realRef (Int.fract (3 * p)))) :=
  congrArg (warp realRef .square) (resoPhase_realRef (n := 2) (by norm_num) p)

theorem warp_reso3 (p : ℝ) : warp realRef .reso3 p =
    warp realRef .pulse (Int.fract (p + 1 / 8 * sineOf realRef (Int.fract (4 * p)))) :=
  congrArg (warp realRef .pulse) (resoPhase_realRef (n := 3) (by norm_num) p)

/-! ## The warped phase (R145) -/

theorem blendPhase_realRef (p f d : ℝ) : blendPhase realRef p f d = (1 - d) * p + d * f := by
  change (((1 : ℚ) : ℝ) - d) * p + d * f = _
  rw [Rat.cast_one]

theorem warpedPhase_realRef (w : Wave) (p d : ℝ) : warpedPhase realRef w p d = (1 - d) * p + d * warp realRef w p :=
  blendPhase_realRef p _ d

/-- Settles O28: each warp in numbers, and the warped phase of the configuration that runs denotes the real one. -/
theorem warpFormulas : Obligations.WarpFormulas :=
  ⟨warpedPhase_realRef, warp_saw, fun p h => (warp_square p).trans (if_neg h.not_ge),
    fun p h => (warp_square p).trans (if_pos h), fun p h => (warp_pulse p).trans (if_neg h.not_ge),
    fun p h => (warp_pulse p).trans (if_pos h), warp_dsine, warp_reso1, warp_reso2, warp_reso3, warpedPhase_denotes⟩

end Sys2Proof.Machine
end

section
/-! SUPPORT. The oscillator over the reals: edges, step residual, correction and sample, in numbers, and that the sample of the
configuration that runs denotes the real one at every amount (41_oscillator.md R153-R158). -/

namespace Sys2Proof.Machine

/-! ## The configuration that runs denotes the real one -/

theorem edgeHeight_denotes (w : Wave) (x : ℚ) (d : Exact) :
    (edgeHeight ref w x d).toReal = edgeHeight realRef w x d.toReal := by
  rw [edgeHeight, ref_sub, sineOf_denotes, sineOf_denotes, edgeRight_toReal, edgeLeft_toReal]
  rfl

theorem blep_denotes (w : Wave) (ps dts d : Exact) :
    (blep ref w ps dts d).toReal = blep realRef w ps.toReal dts.toReal d.toReal := by
  simp [blep, edgeHeight_denotes, Function.comp_def]

theorem waveSample_denotes (w : Wave) (ps dts d : Exact) :
    (waveSample ref w ps dts d).toReal = waveSample realRef w ps.toReal dts.toReal d.toReal := by
  simp [waveSample, sineOf_denotes, warpedPhase_denotes, blep_denotes]

theorem oscSample_denotes (b : Bank) (l : Line) (o : Osc) (d : Exact) :
    (oscSample ref b l o d).toReal = oscSample realRef b l o d.toReal := waveSample_denotes _ _ _ d

/-! ## The jump heights of the edges (R153) -/

theorem warpLeft_saw (x : ℝ) : realRef.warpLeft realRef.toTables .saw x = 3 / 4 := by
  change ((3 / 4 : ℚ) : ℝ) = _
  norm_num

theorem warpLeft_square (x : ℝ) : realRef.warpLeft realRef.toTables .square x = if x ≤ 0 then 7 / 8 else 3 / 8 := by
  change (if x ≤ ((0 : ℚ) : ℝ) then ((7 / 8 : ℚ) : ℝ) else ((3 / 8 : ℚ) : ℝ)) = _
  push_cast
  rfl

theorem warpLeft_pulse (x : ℝ) : realRef.warpLeft realRef.toTables .pulse x = if x ≤ 0 then 7 / 8 else 3 / 8 :=
  warpLeft_square x

/-- The phase an edge at x jumps to. -/
theorem edgeRight_realRef (w : Wave) (x : ℚ) (d : ℝ) : edgeRight realRef w x d = (1 - d) * x + d * warp realRef w x :=
  warpedPhase_realRef w x d

/-- The phase an edge at x jumps from. -/
theorem edgeLeft_realRef (w : Wave) (x : ℚ) (d : ℝ) : edgeLeft realRef w x d =
    (1 - d) * (if x = 0 then 1 else x : ℚ) + d * realRef.warpLeft realRef.toTables w x := blendPhase_realRef _ _ d

theorem edgeHeight_realRef (w : Wave) (x : ℚ) (d : ℝ) :
    edgeHeight realRef w x d = sineOf realRef (edgeRight realRef w x d) - sineOf realRef (edgeLeft realRef w x d) := rfl

theorem edgeHeight_saw_zero (d : ℝ) :
    edgeHeight realRef .saw 0 d = sineOf realRef (d / 4) - sineOf realRef (1 - d / 4) := by
  have hright : edgeRight realRef .saw 0 d = d / 4 := by
    rw [edgeRight_realRef, warp_saw]
    push_cast
    ring
  have hleft : edgeLeft realRef .saw 0 d = 1 - d / 4 := by
    rw [edgeLeft_realRef, warpLeft_saw, if_pos rfl]
    push_cast
    ring
  rw [edgeHeight_realRef, hright, hleft]

theorem edgeHeight_square_zero (d : ℝ) :
    edgeHeight realRef .square 0 d = sineOf realRef (d / 8) - sineOf realRef (1 - d / 8) := by
  have hright : edgeRight realRef .square 0 d = d / 8 := by
    rw [edgeRight_realRef, warp_square, if_neg (by norm_num)]
    push_cast
    ring
  have hleft : edgeLeft realRef .square 0 d = 1 - d / 8 := by
    rw [edgeLeft_realRef, warpLeft_square, if_pos rfl, if_pos (by norm_num)]
    push_cast
    ring
  rw [edgeHeight_realRef, hright, hleft]

theorem edgeHeight_square_half (d : ℝ) :
    edgeHeight realRef .square (1 / 2) d = sineOf realRef (1 / 2 + d / 8) - sineOf realRef (1 / 2 - d / 8) := by
  have hright : edgeRight realRef .square (1 / 2) d = 1 / 2 + d / 8 := by
    rw [edgeRight_realRef, warp_square, if_pos (by norm_num)]
    push_cast
    ring
  have hleft : edgeLeft realRef .square (1 / 2) d = 1 / 2 - d / 8 := by
    rw [edgeLeft_realRef, warpLeft_square, if_neg (by norm_num), if_neg (by norm_num)]
    push_cast
    ring
  rw [edgeHeight_realRef, hright, hleft]

theorem edgeHeight_pulse_zero (d : ℝ) :
    edgeHeight realRef .pulse 0 d = sineOf realRef (d / 8) - sineOf realRef (1 - d / 8) := by
  have hright : edgeRight realRef .pulse 0 d = d / 8 := by
    rw [edgeRight_realRef, warp_pulse, if_neg (by norm_num)]
    push_cast
    ring
  have hleft : edgeLeft realRef .pulse 0 d = 1 - d / 8 := by
    rw [edgeLeft_realRef, warpLeft_pulse, if_pos rfl, if_pos (by norm_num)]
    push_cast
    ring
  rw [edgeHeight_realRef, hright, hleft]

theorem edgeHeight_pulse_quarter (d : ℝ) :
    edgeHeight realRef .pulse (1 / 4) d = sineOf realRef (1 / 4 + 3 * d / 8) - sineOf realRef (1 / 4 + d / 8) := by
  have hright : edgeRight realRef .pulse (1 / 4) d = 1 / 4 + 3 * d / 8 := by
    rw [edgeRight_realRef, warp_pulse, if_pos (by norm_num)]
    push_cast
    ring
  have hleft : edgeLeft realRef .pulse (1 / 4) d = 1 / 4 + d / 8 := by
    rw [edgeLeft_realRef, warpLeft_pulse, if_neg (by norm_num), if_neg (by norm_num)]
    push_cast
    ring
  rw [edgeHeight_realRef, hright, hleft]

/-- Without distortion no waveform jumps: at phase 0 the two sides are a whole turn apart, elsewhere they are one phase. -/
theorem edgeHeight_undistorted (w : Wave) (x : ℚ) : edgeHeight realRef w x 0 = 0 := by
  rw [edgeHeight_realRef, edgeRight_realRef, edgeLeft_realRef, sub_eq_zero]
  simp only [sub_zero, one_mul, zero_mul, add_zero]
  split
  · next hx => simpa [hx] using (sineOf_add_one 0).symm
  · rfl

/-! ## The full jumps: SIN at the eighths of a turn -/

theorem sineOf_oneEighth : sineOf realRef (1 / 8) = √2 / 2 := by
  have hphase : (1 / 8 : ℝ) = (256 : Int) / 2048 := by norm_num
  have hangle : 2 * Real.pi * ((256 : Int) : ℝ) / 2048 = Real.pi / 4 := by
    push_cast
    ring
  rw [hphase, sineOf_tablePhase, hangle, Real.sin_pi_div_four]

theorem sineOf_threeEighths : sineOf realRef (3 / 8) = √2 / 2 := by
  have hphase : (3 / 8 : ℝ) = (768 : Int) / 2048 := by norm_num
  have hangle : 2 * Real.pi * ((768 : Int) : ℝ) / 2048 = Real.pi - Real.pi / 4 := by
    push_cast
    ring
  rw [hphase, sineOf_tablePhase, hangle, Real.sin_pi_sub, Real.sin_pi_div_four]

theorem sineOf_fiveEighths : sineOf realRef (5 / 8) = -(√2 / 2) := by
  rw [← sineOf_oneEighth, ← sineOf_add_half]
  norm_num

theorem sineOf_sevenEighths : sineOf realRef (7 / 8) = -(√2 / 2) := by
  rw [← sineOf_threeEighths, ← sineOf_add_half]
  norm_num

/-- The jump heights at d = 1. -/
theorem edgeHeights_full :
    edgeHeight realRef .saw 0 1 = 2 ∧ edgeHeight realRef .square 0 1 = √2 ∧ edgeHeight realRef .square (1 / 2) 1 = -√2 ∧
      edgeHeight realRef .pulse 0 1 = √2 ∧ edgeHeight realRef .pulse (1 / 4) 1 = -√2 := by
  have hdown : -(√2 / 2) - √2 / 2 = -√2 := by ring
  rw [edgeHeight_saw_zero, edgeHeight_square_zero, edgeHeight_square_half, edgeHeight_pulse_zero, edgeHeight_pulse_quarter]
  norm_num [sineOf_quarter, sineOf_threeQuarters, sineOf_oneEighth, sineOf_threeEighths, sineOf_fiveEighths,
    sineOf_sevenEighths, hdown]

/-! ## The step residual (R154) -/

theorem polyBlep_realRef (t dt : ℝ) : polyBlep realRef t dt =
    if dt ≤ t then (if t ≤ 1 - dt then 0 else (t - 1) / dt * ((t - 1) / dt) + 2 * ((t - 1) / dt) + 1)
    else 2 * (t / dt) - t / dt * (t / dt) - 1 := by
  change (if dt ≤ t then (if t ≤ ((1 : ℚ) : ℝ) - dt then ((0 : ℚ) : ℝ)
      else (t - (1 : ℚ)) / dt * ((t - (1 : ℚ)) / dt) + (2 : ℚ) * ((t - (1 : ℚ)) / dt) + (1 : ℚ))
    else (2 : ℚ) * (t / dt) - t / dt * (t / dt) - (1 : ℚ)) = _
  push_cast
  rfl

/-- Just after an edge. -/
theorem polyBlep_after {t dt : ℝ} (h : t < dt) : polyBlep realRef t dt = 2 * (t / dt) - (t / dt) ^ 2 - 1 := by
  rw [polyBlep_realRef, if_neg h.not_ge, sq]

/-- Just before an edge. -/
theorem polyBlep_before {t dt : ℝ} (h : dt ≤ t) (h' : 1 - dt < t) :
    polyBlep realRef t dt = ((t - 1) / dt) ^ 2 + 2 * ((t - 1) / dt) + 1 := by
  rw [polyBlep_realRef, if_pos h, if_neg h'.not_ge, sq]

/-- Away from an edge. -/
theorem polyBlep_away {t dt : ℝ} (h : dt ≤ t) (h' : t ≤ 1 - dt) : polyBlep realRef t dt = 0 := by
  rw [polyBlep_realRef, if_pos h, if_pos h']

/-! ## The correction (R155) -/

/-- The correction sums the residuals of the edges, up to an increment of half a cycle. -/
theorem blep_realRef (w : Wave) (ps dts d : ℝ) : blep realRef w ps dts d =
    if 1 / 2 ≤ dts then 0
    else ((edgePhases w).map fun x => edgeHeight realRef w x d / 2 * polyBlep realRef (Int.fract (ps - x)) dts).sum := by
  rw [blep, numSum_realRef]
  change (if ((1 / 2 : ℚ) : ℝ) ≤ dts then ((0 : ℚ) : ℝ) else
    ((edgePhases w).map fun x =>
      edgeHeight realRef w x d / ((2 : ℚ) : ℝ) * polyBlep realRef (Int.fract (ps - x)) dts).sum) = _
  push_cast
  rfl

theorem blep_fast (w : Wave) (ps d : ℝ) {dts : ℝ} (h : 1 / 2 ≤ dts) : blep realRef w ps dts d = 0 := by
  rw [blep_realRef, if_pos h]

theorem blep_saw (ps d : ℝ) {dts : ℝ} (h : dts < 1 / 2) :
    blep realRef .saw ps dts d = edgeHeight realRef .saw 0 d / 2 * polyBlep realRef (Int.fract ps) dts := by
  rw [blep_realRef, if_neg h.not_ge]
  simp [edgePhases]

theorem blep_square (ps d : ℝ) {dts : ℝ} (h : dts < 1 / 2) :
    blep realRef .square ps dts d = edgeHeight realRef .square 0 d / 2 * polyBlep realRef (Int.fract ps) dts
      + edgeHeight realRef .square (1 / 2) d / 2 * polyBlep realRef (Int.fract (ps - 1 / 2)) dts := by
  rw [blep_realRef, if_neg h.not_ge]
  simp [edgePhases]

theorem blep_pulse (ps d : ℝ) {dts : ℝ} (h : dts < 1 / 2) :
    blep realRef .pulse ps dts d = edgeHeight realRef .pulse 0 d / 2 * polyBlep realRef (Int.fract ps) dts
      + edgeHeight realRef .pulse (1 / 4) d / 2 * polyBlep realRef (Int.fract (ps - 1 / 4)) dts := by
  rw [blep_realRef, if_neg h.not_ge]
  simp [edgePhases]

theorem blep_noEdges {w : Wave} (h : edgePhases w = []) (ps dts d : ℝ) : blep realRef w ps dts d = 0 := by
  simp [blep_realRef, h]

theorem blep_undistorted (w : Wave) (ps dts : ℝ) : blep realRef w ps dts 0 = 0 := by
  simp [blep_realRef, edgeHeight_undistorted]

/-! ## The sample (R156-R158) -/

theorem waveSample_realRef (w : Wave) (ps dts d : ℝ) : waveSample realRef w ps dts d =
    min (max (sineOf realRef (warpedPhase realRef w ps d) + blep realRef w ps dts d) (-1)) 1 := by
  change min (max _ ((-1 : ℚ) : ℝ)) ((1 : ℚ) : ℝ) = _
  push_cast
  rfl

/-- Without distortion the sample is a pure sine of the phase. -/
theorem waveSample_undistorted (w : Wave) (ps dts : ℝ) : waveSample realRef w ps dts 0 = sineOf realRef ps := by
  obtain ⟨hlo, hhi⟩ := sineOf_bounds ps
  rw [waveSample_realRef, warpedPhase_realRef, blep_undistorted]
  simp [max_eq_left hlo, min_eq_left hhi]

/-- Bit 31 of a phase says which half of the cycle it is in. -/
theorem phase_bit31_iff (ph : BitVec 32) : ph.getLsbD 31 = true ↔ ¬ph.toNat < 2 ^ 31 := by
  have hph := ph.isLt
  rw [BitVec.getLsbD, Nat.testBit_eq_decide_div_mod_eq, decide_eq_true_iff]
  omega

section
variable {b : Bank} {l : Line} (o : Osc) (d : ℝ)

/-- In single mode an oscillator plays wave A at its phase. -/
theorem oscSample_single (h : dualWave realRef b l = false) : oscSample realRef b l o d =
    waveSample realRef (waveA realRef b l) ((o.ph.toNat : ℝ) / 2 ^ 32) ((o.inc.toNat : ℝ) / 2 ^ 32) d := by
  have hsplit : splitPhase realRef b l o = (waveA realRef b l, phaseOf o.ph, incrementOf o.inc) := by
    rw [splitPhase, h, if_neg Bool.false_ne_true]
  rw [oscSample, hsplit, phaseOf_eq, incrementOf_eq]
  simp

/-- In dual mode the two halves of a cycle play waves A and B, each stretched to a whole one. -/
theorem oscSample_dual (h : dualWave realRef b l = true) : oscSample realRef b l o d =
    waveSample realRef (if o.ph.toNat < 2 ^ 31 then waveA realRef b l else waveB realRef b l)
      (((2 * o.ph.toNat % 2 ^ 32 : Nat) : ℝ) / 2 ^ 32) (2 * (o.inc.toNat : ℝ) / 2 ^ 32) d := by
  have hwave : (if o.ph.getLsbD 31 then waveB realRef b l else waveA realRef b l) =
      if o.ph.toNat < 2 ^ 31 then waveA realRef b l else waveB realRef b l := by
    rw [← ite_not]
    exact if_congr (not_iff_comm.1 (phase_bit31_iff o.ph).symm) rfl rfl
  have hsplit : splitPhase realRef b l o = (if o.ph.toNat < 2 ^ 31 then waveA realRef b l else waveB realRef b l,
      phaseOf (BitVec.ofNat 32 (2 * o.ph.toNat)), 2 * incrementOf o.inc) := by
    rw [splitPhase, h, if_pos rfl, hwave]
  rw [oscSample, hsplit, phaseOf_eq, incrementOf_eq, BitVec.toNat_ofNat]
  simp [mul_div_assoc]

theorem oscSample_single_undistorted (h : dualWave realRef b l = false) :
    oscSample realRef b l o 0 = sineOf realRef ((o.ph.toNat : ℝ) / 2 ^ 32) := by
  rw [oscSample_single o 0 h, waveSample_undistorted]

theorem oscSample_dual_undistorted (h : dualWave realRef b l = true) :
    oscSample realRef b l o 0 = sineOf realRef (2 * ((o.ph.toNat : ℝ) / 2 ^ 32)) := by
  have hperiodic : Function.Periodic (sineOf realRef) 1 := sineOf_add_one
  have hsplit : (2 * o.ph.toNat : ℝ) = (2 ^ 32 : ℝ) * (2 * o.ph.toNat / 2 ^ 32 : Nat) + (2 * o.ph.toNat % 2 ^ 32 : Nat) := by
    exact_mod_cast (Nat.div_add_mod (2 * o.ph.toNat) (2 ^ 32)).symm
  have hphase : 2 * ((o.ph.toNat : ℝ) / 2 ^ 32) =
      ((2 * o.ph.toNat % 2 ^ 32 : Nat) : ℝ) / 2 ^ 32 + (2 * o.ph.toNat / 2 ^ 32 : Nat) * 1 := by
    rw [← mul_div_assoc, hsplit]
    ring
  rw [oscSample_dual o 0 h, waveSample_undistorted, hphase, hperiodic.nat_mul]

end

/-- Settles O29: the edges, the residual, the correction and the sample of an oscillator in numbers, the pure sine at d = 0, and
that the sample of the configuration that runs denotes the real one. -/
theorem oscillatorSample : Obligations.OscillatorSample := by
  refine ⟨fun d => ⟨edgeHeight_saw_zero d, edgeHeight_square_zero d, edgeHeight_square_half d, edgeHeight_pulse_zero d,
    edgeHeight_pulse_quarter d⟩, edgeHeights_full, fun t dt => ⟨polyBlep_after, polyBlep_before, polyBlep_away⟩,
    fun ps dts d => ⟨fun h w => blep_fast w ps d h, fun h => ⟨blep_saw ps d h, blep_square ps d h, blep_pulse ps d h⟩,
      fun w hw => blep_noEdges ?_ ps dts d⟩,
    fun b l o d ps dts w => ⟨?_, ?_⟩, blep_undistorted, fun b l o => oscSample_single_undistorted o,
    fun b l o => oscSample_dual_undistorted o, oscSample_denotes⟩
  · simp only [List.mem_cons, List.not_mem_nil, or_false] at hw
    rcases hw with rfl | rfl | rfl | rfl <;> rfl
  · rintro h rfl rfl rfl
    rw [oscSample_single o d h, waveSample_realRef]
  · rintro h rfl rfl rfl
    rw [oscSample_dual o d h, waveSample_realRef]

end Sys2Proof.Machine
end

section
/-! SUPPORT. The increment of an oscillator over the reals, from the pitch in semitones (41_oscillator.md R142; 43_voice.md R222,
R226). -/

namespace Sys2Proof.Machine

/-! ## The register of a frequency (R142) -/

/-- A non-negative integer stored in 64 bits, saturated at the largest code. -/
theorem toNat_saturated64 {n : Int} (h : 0 ≤ n) :
    ((BitVec.ofNat 64 (min n.toNat (2 ^ 64 - 1))).toNat : Int) = min n (2 ^ 64 - 1) := by
  rw [BitVec.toNat_ofNat]
  omega

/-- `INCR` of a frequency that is not negative, over the reals. -/
theorem incr_realRef {f : ℝ} (h : 0 ≤ f) :
    ((incr realRef f).toNat : Int) = min ⌊f * 2 ^ 32 / 48000⌋ (2 ^ 64 - 1) := by
  have hfloor : (0 : Int) ≤ ⌊f * 2 ^ 32 / 48000⌋ := Int.floor_nonneg.2 (by positivity)
  rw [← toNat_saturated64 hfloor]
  unfold incr
  simp only [realRef_floor, realRef_mul, realRef_div, numOf_realRef, realRef_fs]
  norm_num

/-! ## The frequency of a pitch (R222, R226) -/

theorem pitchHz_realRef (semis : ℝ) : pitchHz realRef semis = 440 * (2 : ℝ) ^ ((semis - 69) / 12) := by
  simp only [pitchHz, realRef_mul, realRef_twoPow, realRef_div, realRef_sub, numOf_realRef]
  norm_num

/-- The pitch of a line reads the latches, the active bank and the voice. -/
theorem semitones_toReal (s : RefEngine) (v : RefVoice) (l : Line) : (semitones ref s v l).toReal =
    (v.note.toNat : ℝ) + s.pitchBend.toReal + (oscDetune ref s.active l : ℝ)
      + (penvDepth ref s.active : ℝ) * (voiceEnv v .pitch l).val.toReal
      + s.lfoIn.toReal * ((vibDepth ref s.active : ℝ) + (wheelVib ref s.active : ℝ) * s.modWheel.toReal) := by
  simp only [semitones, ref_add, ref_mul, numOf_ref, toReal_rat, Rat.cast_natCast]

/-- With latches and a voice in range the pitch is a rational. -/
theorem isRat_semitones_of_inRange {s : RefEngine} {v : RefVoice} (l : Line) (hs : LatchesOk s) (hv : VoiceOk v) :
    IsRat (semitones ref s v l) := by
  obtain ⟨hmod, -, hbend, hlfo⟩ := hs
  have hval := ((voiceRat_of_voiceOk hv).envs .pitch l).val
  have hwheel := isRat_of_ratWithin hmod
  exact ((((isRat_rat _).exactAdd (isRat_of_ratWithin hbend)).exactAdd (isRat_rat _)).exactAdd
    ((isRat_rat _).exactMul hval)).exactAdd
      ((isRat_of_ratWithin hlfo).exactMul ((isRat_rat _).exactAdd ((isRat_rat _).exactMul hwheel)))

/-- The clamped frequency denotes the real one. -/
theorem voiceFreq_toReal (s : RefEngine) (v : RefVoice) (l : Line) : (voiceFreq ref s v l).toReal =
    min (max (440 * (2 : ℝ) ^ (((semitones ref s v l).toReal - 69) / 12)) 20) 20000 := by
  rw [voiceFreq, numClamp_toReal, pitchHz_toReal, pitchHz_realRef]
  simp [numClamp]

/-- The floor that the increment of a rational pitch asks for is found. -/
theorem exactFloorKnown_voiceFreq {s : RefEngine} {v : RefVoice} {l : Line} (h : IsRat (semitones ref s v l)) :
    (exactFloorKnown (incrementArgument (voiceFreq ref s v l))).isSome = true := by
  obtain ⟨e, he⟩ := pitchHz_scaledPow h
  rw [voiceFreq, he]
  exact exactFloorKnown_clampedPitch e

/-- Settles O23: the floor is found, so the increment is the real one, of the frequency the pitch denotes. -/
theorem incrementIsReal : Obligations.IncrementIsReal := by
  rintro s v l semis hs hv hsemis
  have hpitch : (semitones ref s v l).toReal = semis := (semitones_toReal s v l).trans hsemis.symm
  have hfreq := voiceFreq_toReal s v l
  have hpos : 0 ≤ (voiceFreq ref s v l).toReal := by
    rw [hfreq]
    exact le_min ((by norm_num : (0 : ℝ) ≤ 20).trans (le_max_right _ _)) (by norm_num)
  rw [← incr_toReal (exactFloorKnown_voiceFreq (isRat_semitones_of_inRange l hs hv)), incr_realRef hpos, hfreq, hpitch]

end Sys2Proof.Machine
end

section
/-! SUPPORT. The stage sequencer: what ENV_ADVANCE does to a unit in each case, and where the control ticks of one ramp lead
(42_envelope.md R185-R191, R193). -/

namespace Sys2Proof.Machine

variable {N Post : Type} (P : Config.Params N Post) (b : Bank) (t : EnvType) (l : Line) {e : Env N}

/-! ## The completion of a ramp (R190) -/

theorem envComplete_hold (hsus : sustainPoint P b t l = some e.stage) (hrel : e.rel = false) :
    envComplete P b t l e = { e with hold := true } := if_pos ⟨hsus, hrel⟩

/-- The unit is not kept at a sustain point: it is at none, or released. -/
theorem envComplete_pass (hsus : sustainPoint P b t l ≠ some e.stage ∨ e.rel = true) :
    envComplete P b t l e = if endPoint P b t l ≤ e.stage then { e with active := false }
      else envArm P b t l { e with stage := e.stage + 1 } (e.stage + 1) := by
  refine if_neg fun ⟨hat, hrel⟩ => ?_
  rcases hsus with hoff | hreleased
  · exact hoff hat
  · exact Bool.false_ne_true (hrel.symm.trans hreleased)

theorem envComplete_end (hsus : sustainPoint P b t l ≠ some e.stage ∨ e.rel = true) (hend : endPoint P b t l ≤ e.stage) :
    envComplete P b t l e = { e with active := false } := by rw [envComplete_pass P b t l hsus, if_pos hend]

theorem envComplete_next (hsus : sustainPoint P b t l ≠ some e.stage ∨ e.rel = true) (hend : e.stage < endPoint P b t l) :
    envComplete P b t l e = envArm P b t l { e with stage := e.stage + 1 } (e.stage + 1) := by
  rw [envComplete_pass P b t l hsus, if_neg hend.not_ge]

/-- Whatever follows a ramp, E_VAL stays where the ramp ended. -/
@[simp] theorem envComplete_val (e : Env N) : (envComplete P b t l e).val = e.val := by
  unfold envComplete
  split
  · rfl
  · split <;> rfl

/-! ## One control tick (R189) -/

theorem envAdvance_idle (h : e.active = false ∨ e.hold = true) : envAdvance P b t l e = e := if_pos h

theorem envAdvance_running (hactive : e.active = true) (hhold : e.hold = false) :
    envAdvance P b t l e = if e.dur ≤ e.k + 1 then envComplete P b t l { e with k := e.k + 1, val := e.tgt }
      else { e with k := e.k + 1, val := envRamp P e (e.k + 1) } :=
  if_neg (by simp [hactive, hhold])

theorem envAdvance_before (hactive : e.active = true) (hhold : e.hold = false) (hk : e.k + 1 < e.dur) :
    envAdvance P b t l e = { e with k := e.k + 1, val := envRamp P e (e.k + 1) } := by
  rw [envAdvance_running P b t l hactive hhold, if_neg hk.not_ge]

theorem envAdvance_last (hactive : e.active = true) (hhold : e.hold = false) (hk : e.dur ≤ e.k + 1) :
    envAdvance P b t l e = envComplete P b t l { e with k := e.k + 1, val := e.tgt } := by
  rw [envAdvance_running P b t l hactive hhold, if_pos hk]

/-- Settles O18: the two cases of a unit that does not move and of a point inside the ramp, and the three completions. -/
theorem envAdvanceCases : Obligations.EnvAdvanceCases := by
  intro N Post P b t l e
  refine ⟨envAdvance_idle P b t l, envAdvance_before P b t l, ?sustain, ?dormant, ?next⟩
  case sustain =>
    intro hactive hhold hk hsus hrel
    rw [envAdvance_last P b t l hactive hhold hk]
    exact envComplete_hold P b t l hsus hrel
  case dormant =>
    intro hactive hhold hk hsus hend
    rw [envAdvance_last P b t l hactive hhold hk]
    exact envComplete_end P b t l (e := { e with k := e.k + 1, val := e.tgt }) hsus hend
  case next =>
    intro hactive hhold hk hsus hend
    rw [envAdvance_last P b t l hactive hhold hk]
    exact envComplete_next P b t l (e := { e with k := e.k + 1, val := e.tgt }) hsus hend

/-! ## A whole ramp (R185, R186, R193) -/

/-- A unit whose ramp has just been armed and will run. -/
structure Armed (e : Env N) : Prop where
  /-- E_ACTIVE. -/
  active : e.active = true
  /-- E_HOLD is clear. -/
  free : e.hold = false
  /-- E_K. -/
  start : e.k = 0
  /-- E_VAL is E_V0. -/
  val : e.val = e.v0
  /-- The ramp takes at least one control tick. -/
  dur : 1 ≤ e.dur

/-- DUR is at least 1, whatever the parameters (R183). -/
theorem one_le_rampTicks (fast : Bool) (i : Nat) : 1 ≤ rampTicks P fast i := le_max_left _ _

theorem armed_arm (hactive : e.active = true) (hfree : e.hold = false) (s : Fin 8) : Armed (envArm P b t l e s) :=
  ⟨hactive, hfree, rfl, rfl, one_le_rampTicks P _ _⟩

theorem armed_noteOn (e : Env N) : Armed (envNoteOn P b t l e) :=
  armed_arm P b t l
    (e := { e with stage := 0, active := true, rel := false, hold := false, val := numOf P (envInitial P b t l) }) rfl rfl 0

theorem envNoteOff_active (hactive : e.active = true) : envNoteOff P b t l e =
    envArm P b t l { e with rel := true, hold := false, stage := endPoint P b t l } (endPoint P b t l) := if_pos hactive

theorem armed_noteOff (hactive : e.active = true) : Armed (envNoteOff P b t l e) := by
  rw [envNoteOff_active P b t l hactive]
  exact armed_arm P b t l (e := { e with rel := true, hold := false, stage := endPoint P b t l }) hactive rfl _

/-- The value of an armed unit after `n` control ticks of its ramp: before the first one it is the start itself. -/
def rampValue (e : Env N) (n : Nat) : N := if n = 0 then e.v0 else envRamp P e n

/-- Inside the ramp only E_K and E_VAL move. -/
theorem iterate_envAdvance_of_lt (h : Armed e) : ∀ n < e.dur,
    (envAdvance P b t l)^[n] e = { e with k := n, val := rampValue P e n } := by
  intro n
  induction n with
  | zero =>
    intro _
    have hval : rampValue P e 0 = e.val := h.val.symm
    rw [Function.iterate_zero_apply, hval, ← h.start]
  | succ n ih =>
    intro hn
    rw [Function.iterate_succ_apply', ih (by omega),
      envAdvance_before P b t l (e := { e with k := n, val := rampValue P e n }) h.active h.free hn]
    rfl

/-- The DUR-th control tick completes the ramp at its target. -/
theorem iterate_envAdvance_dur (h : Armed e) :
    (envAdvance P b t l)^[e.dur] e = envComplete P b t l { e with k := e.dur, val := e.tgt } := by
  have hdur : e.dur - 1 + 1 = e.dur := Nat.sub_add_cancel h.dur
  calc (envAdvance P b t l)^[e.dur] e
      = envAdvance P b t l ((envAdvance P b t l)^[e.dur - 1] e) := by
        rw [← Function.iterate_succ_apply' (envAdvance P b t l), Nat.succ_eq_add_one, hdur]
    _ = envAdvance P b t l { e with k := e.dur - 1, val := rampValue P e (e.dur - 1) } := by
      rw [iterate_envAdvance_of_lt P b t l h _ (by omega)]
    _ = envComplete P b t l { e with k := e.dur - 1 + 1, val := e.tgt } :=
      envAdvance_last P b t l (e := { e with k := e.dur - 1, val := rampValue P e (e.dur - 1) }) h.active h.free hdur.ge
    _ = envComplete P b t l { e with k := e.dur, val := e.tgt } := by rw [hdur]

/-- Over the exact reals the ramp between two rationals is the line between them (R186). -/
theorem rampValue_rat {e : Env Exact} {v g : ℚ} (hv : e.v0 = .rat v) (hg : e.tgt = .rat g) (n : Nat) :
    rampValue ref e n = .rat (v + (g - v) * (n : ℚ) / (e.dur : ℚ)) := by
  unfold rampValue
  split
  · next hzero => simp [hzero, hv]
  · have hform : envRamp ref e n = .rat (v + (e.dur : ℚ)⁻¹ * ((g + -1 * v) * n)) := by
      unfold envRamp
      rw [hv, hg]
      rfl
    rw [hform, neg_one_mul, ← sub_eq_add_neg, div_eq_inv_mul]

/-- Settles O19: ENV_NOTE_ON arms stage 0's ramp from INIT, and its ticks run along the line. -/
theorem envReachesFirstLevel : Obligations.EnvReachesFirstLevel := by
  rintro b t l e d rfl
  have harmed := armed_noteOn ref b t l e
  refine ⟨harmed.dur, rfl, fun n hn => ?_, ?_⟩
  · rw [iterate_envAdvance_of_lt ref b t l harmed n hn]
    exact rampValue_rat rfl rfl n
  · rw [iterate_envAdvance_dur ref b t l harmed, envComplete_val]
    rfl

/-- Settles O20: ENV_NOTE_OFF arms END's ramp with E_REL set, so no sustain point keeps its completion from ending the unit. -/
theorem releaseEndsAtEndLevel : Obligations.ReleaseEndsAtEndLevel := by
  rintro N Post P b t l e d hactive rfl
  have harmed := armed_noteOff P b t l hactive
  have hform := envNoteOff_active P b t l hactive
  have hrel : (envNoteOff P b t l e).rel = true := by rw [hform]; rfl
  have hstage : (envNoteOff P b t l e).stage = endPoint P b t l := by rw [hform]; rfl
  have htgt : (envNoteOff P b t l e).tgt = numOf P (uq15 (stageLevel P b t l (endPoint P b t l))) := by rw [hform]; rfl
  have hdone : (envAdvance P b t l)^[(envNoteOff P b t l e).dur] (envNoteOff P b t l e) =
      { envNoteOff P b t l e with
        k := (envNoteOff P b t l e).dur, val := (envNoteOff P b t l e).tgt, active := false } := by
    rw [iterate_envAdvance_dur P b t l harmed]
    exact envComplete_end P b t l
      (e := { envNoteOff P b t l e with k := (envNoteOff P b t l e).dur, val := (envNoteOff P b t l e).tgt })
      (.inr hrel) hstage.ge
  refine ⟨by rw [hform]; rfl, fun n hn => ?_, ?_⟩
  · rw [iterate_envAdvance_of_lt P b t l harmed n hn]
    exact harmed.active
  · rw [hdone]
    exact ⟨rfl, htgt, hstage⟩

end Sys2Proof.Machine
end

section
/-! SUPPORT. The ramp lengths over the reals (42_envelope.md R182, R183). -/

namespace Sys2Proof.Machine

/-- The duration of a rate index in milliseconds, in either table (R182). -/
theorem rampMs_realRef (fast : Bool) (i : Nat) : rampMs realRef fast i =
    (if fast = true ∧ 50 ≤ i then (1 / 2 : ℝ) else 1) * (1 / 2 * (2 : ℝ) ^ ((99 - (i : ℝ)) / 6)) := by
  have hnormal : realRef.rateMs i = 1 / 2 * (2 : ℝ) ^ ((99 - (i : ℝ)) / 6) := by
    change ((1 / 2 : ℚ) : ℝ) * (2 : ℝ) ^ (((99 - (i : ℚ)) / 6 : ℚ) : ℝ) = _
    push_cast
    rfl
  have hfactor : realRef.fastFactor = 2 := Rat.cast_ofNat 2
  unfold rampMs
  by_cases h : fast = true ∧ 50 ≤ i
  · rw [if_pos h, if_pos (by simpa using h), realRef_div, hnormal, hfactor]
    ring
  · rw [if_neg h, if_neg (by simpa using h), hnormal, one_mul]

/-- DUR over the reals (R183): rounding half up of the duration in control ticks, at least 1. -/
theorem rampTicks_real (fast : Bool) (i : Nat) :
    (rampTicks realRef fast i : Int) = max 1 ⌊rampMs realRef fast i * 48000 / (1000 * 8) + 1 / 2⌋ := by
  have hround : rampTicks realRef fast i = max 1 ⌊rampMs realRef fast i * 48000 / (1000 * 8) + 1 / 2⌋.toNat := by
    simp only [rampTicks, numRhu, realRef_floor, realRef_add, realRef_div, realRef_mul, numOf_realRef, realRef_fs,
      realRef_envDecim]
    norm_num
  rw [hround]
  omega

/-- Settles O22: the executed ramp length is the one over ℝ. -/
theorem rampTicksAreReal : Obligations.RampTicksAreReal := by
  intro fast i _
  rw [← rampTicks_realRef, rampTicks_real, rampMs_realRef]

end Sys2Proof.Machine
end

section
/-! SUPPORT. The ADSR adapter and RATE_INV (42_envelope.md R194, R195). -/

namespace Sys2Proof.Machine

/-! ## RATE_INV (R194) -/

section search
variable {N : Type} (num : NumSys N) (ms : N)

/-- The search downwards answers an index within its reach. -/
theorem rateInvFrom_le (n : Nat) : rateInvFrom num ms n ≤ n := by
  induction n with
  | zero => exact le_rfl
  | succ n ih =>
    rw [rateInvFrom]
    split
    · exact le_rfl
    · omega

/-- Where the indices that are reached are those up to `v`, the search finds `v`, clamped to its reach. -/
theorem rateInvFrom_eq {v : Int} {n : Nat} (h : ∀ i ≤ n, rateReaches num ms i = true ↔ (i : Int) ≤ v) :
    (rateInvFrom num ms n : Int) = min (max v 0) n := by
  induction n with
  | zero => simp [rateInvFrom]
  | succ n ih =>
    have hbelow := ih fun i hi => h i (by omega)
    have htop := h (n + 1) le_rfl
    rw [rateInvFrom]
    split
    · next hyes =>
      have hle := htop.1 hyes
      omega
    · next hno =>
      have hlt := mt htop.2 hno
      omega

theorem referenceRateInv_le : referenceRateInv num ms ≤ 99 := by
  unfold referenceRateInv
  split
  · exact le_rfl
  · exact rateInvFrom_le num ms 99

end search

theorem numPow_realNum (x : ℝ) (n : Nat) : numPow realNum x n = x ^ n := by
  induction n with
  | zero => exact Rat.cast_one
  | succ n ih =>
    rw [pow_succ', ← ih]
    rfl

/-- The comparison of whole powers is the comparison of the logarithms: an index up to 99 is reached exactly when it is at most
the rounded value of R194. -/
theorem rateReaches_realNum {ms : ℝ} (h : 0 < ms) (i : Nat) (hi : i ≤ 99) :
    rateReaches realNum ms i = true ↔ (i : Int) ≤ ⌊99 - 6 * Real.logb 2 (ms / (1 / 2)) + 1 / 2⌋ := by
  have hreach : rateReaches realNum ms i = true ↔ (2 * ms) ^ 12 ≤ (2 : ℝ) ^ (199 - 2 * i) := by
    have htwo : @HMul.hMul ℝ ℝ ℝ (@instHMul _ realNum.toMul) (realNum.ofRat 2) ms = 2 * ms :=
      congrArg (· * ms) (Rat.cast_ofNat 2)
    have hpower : realNum.ofRat ((2 ^ (199 - 2 * i) : Nat) : ℚ) = (2 : ℝ) ^ (199 - 2 * i) :=
      (Rat.cast_natCast _).trans (by push_cast; rfl)
    unfold rateReaches
    rw [numPow_realNum, htwo]
    refine decide_eq_true_iff.trans ?_
    rw [hpower]
  have hlog : Real.logb 2 ((2 * ms) ^ 12) = 12 * Real.logb 2 (2 * ms) := by
    rw [Real.logb_pow]
    norm_num
  have hexp : ((199 - 2 * i : Nat) : ℝ) = 199 - 2 * (i : ℝ) := by
    rw [Nat.cast_sub (by omega)]
    push_cast
    rfl
  rw [hreach, Int.le_floor, show ms / (1 / 2) = 2 * ms by ring, ← Real.rpow_natCast 2,
    ← Real.logb_le_iff_le_rpow one_lt_two (by positivity), hlog, hexp, Int.cast_natCast]
  constructor <;> intro hle <;> linarith

theorem rateInv_realRef {ms : ℝ} (h : 0 < ms) :
    (realRef.rateInv ms : Int) = min (max ⌊99 - 6 * Real.logb 2 (ms / (1 / 2)) + 1 / 2⌋ 0) 99 := by
  have hform : realRef.rateInv ms = rateInvFrom realNum ms 99 :=
    if_neg fun hle => h.not_ge (((realRef_le ms _).1 hle).trans_eq Rat.cast_zero)
  rw [hform]
  exact rateInvFrom_eq realNum ms (rateReaches_realNum h)

theorem rateInv_realRef_of_nonpos {ms : ℝ} (h : ms ≤ 0) : realRef.rateInv ms = 99 :=
  if_pos ((realRef_le ms _).2 (h.trans_eq Rat.cast_zero.symm))

/-- A comparison of rationals is that of the reals they denote. -/
theorem exactLe_rat (p q : ℚ) : exactNum.le (.rat p) (.rat q) = realNum.le (p : ℝ) (q : ℝ) :=
  Bool.eq_iff_iff.2 ((exactLe_iff (isLinear_rat p) (isLinear_rat q)).trans (realRef_le _ _).symm)

theorem numPow_exactNum (q : ℚ) (n : Nat) : numPow exactNum (.rat q) n = .rat (q ^ n) := by
  induction n with
  | zero => exact congrArg Exact.rat (pow_zero q).symm
  | succ n ih =>
    rw [numPow, ih, pow_succ']
    rfl

theorem rateReaches_rat (q : ℚ) (i : Nat) : rateReaches exactNum (.rat q) i = rateReaches realNum (q : ℝ) i := by
  have hpow : numPow realNum (@HMul.hMul ℝ ℝ ℝ (@instHMul _ realNum.toMul) (realNum.ofRat 2) (q : ℝ)) 12 =
      (((2 * q) ^ 12 : ℚ) : ℝ) := by
    rw [numPow_realNum, Rat.cast_pow, Rat.cast_mul]
    rfl
  calc rateReaches exactNum (.rat q) i
      = exactNum.le (.rat ((2 * q) ^ 12)) (.rat (2 ^ (199 - 2 * i) : Nat)) :=
        congrArg (exactNum.le · (.rat (2 ^ (199 - 2 * i) : Nat))) (numPow_exactNum (2 * q) 12)
    _ = realNum.le (((2 * q) ^ 12 : ℚ) : ℝ) (((2 ^ (199 - 2 * i) : Nat) : ℚ) : ℝ) := exactLe_rat _ _
    _ = rateReaches realNum (q : ℝ) i := congrArg (realNum.le · (((2 ^ (199 - 2 * i) : Nat) : ℚ) : ℝ)) hpow.symm

theorem rateInv_rat (q : ℚ) : ref.rateInv (.rat q) = realRef.rateInv (q : ℝ) := by
  have hsearch : ∀ n, rateInvFrom exactNum (.rat q) n = rateInvFrom realNum (q : ℝ) n := by
    intro n
    induction n with
    | zero => rfl
    | succ n ih => rw [rateInvFrom, rateInvFrom, rateReaches_rat, ih]
  have hzero : exactNum.le (.rat q) (.rat 0) = realNum.le (q : ℝ) ((0 : ℚ) : ℝ) := exactLe_rat q 0
  exact if_congr (Bool.eq_iff_iff.1 hzero) rfl (hsearch 99)

/-- Settles O24: the search finds the rounded logarithm, and its tests answer the same for a rational and its real. -/
theorem rateInvIsReal : Obligations.RateInvIsReal :=
  ⟨fun _ => rateInv_realRef, fun _ => rateInv_realRef_of_nonpos, rateInv_rat⟩

/-! ## The codes of R195 -/

theorem toNat_ofInt_code {n : Int} (h0 : 0 ≤ n) (h1 : n ≤ 32768) : (BitVec.ofInt 16 n : Code).toNat = n.toNat := by
  rw [BitVec.toNat_ofInt]
  omega

/-- Rounding a fraction of 0x8000 stays within the code's range. -/
theorem rhu_bounds {x : ℚ} (h0 : 0 ≤ x) (h1 : x ≤ 32768) : 0 ≤ ⌊x + 1 / 2⌋ ∧ ⌊x + 1 / 2⌋ ≤ 32768 := by
  refine ⟨Int.floor_nonneg.2 (by positivity), Int.lt_add_one_iff.1 (Int.floor_lt.2 ?_)⟩
  push_cast
  linarith

theorem rateCode_bounds {i : Nat} (hi : i ≤ 99) :
    0 ≤ ⌊(i : ℚ) * 32768 / 99 + 1 / 2⌋ ∧ ⌊(i : ℚ) * 32768 / 99 + 1 / 2⌋ ≤ 32768 := by
  have hi' : (i : ℚ) ≤ 99 := by exact_mod_cast hi
  exact rhu_bounds (by positivity) (by linarith)

/-- The rate code of an index as a number. -/
theorem rateCode_toNat {i : Nat} (hi : i ≤ 99) : (rateCode i).toNat = ⌊(i : ℚ) * 32768 / 99 + 1 / 2⌋.toNat :=
  toNat_ofInt_code (rateCode_bounds hi).1 (rateCode_bounds hi).2

theorem rateCode_le {i : Nat} (hi : i ≤ 99) : (rateCode i).toNat ≤ 0x8000 := by
  have hbounds := rateCode_bounds hi
  rw [rateCode_toNat hi]
  omega

/-- A rate code decodes back to its index (R181): rounding to 1/0x8000 moves the index by less than half. -/
theorem rateIndex_rateCode {i : Nat} (hi : i ≤ 99) : rateIndex (rateCode i) = i := by
  obtain ⟨hlow, -⟩ := rateCode_bounds hi
  have hvalue : uq15 (rateCode i) = (⌊(i : ℚ) * 32768 / 99 + 1 / 2⌋ : ℚ) / 32768 := by
    have hnat : (((rateCode i).toNat : Int) : ℚ) = (⌊(i : ℚ) * 32768 / 99 + 1 / 2⌋ : ℚ) := by
      rw [rateCode_toNat hi, Int.toNat_of_nonneg hlow]
    rw [uq15, min_eq_left (rateCode_le hi), ← hnat, Int.cast_natCast]
  have hbelow := Int.floor_le ((i : ℚ) * 32768 / 99 + 1 / 2)
  have habove := Int.lt_floor_add_one ((i : ℚ) * 32768 / 99 + 1 / 2)
  have hround : rhu (99 * uq15 (rateCode i)) = i := by
    rw [rhu, hvalue, Int.floor_eq_iff]
    push_cast
    constructor <;> linarith
  rw [rateIndex, hround, Int.toNat_natCast]

/-- `clamp01` of a rational is the rational that is clamped. -/
theorem numClamp01_rat (q : ℚ) : numClamp01 ref (.rat q) = .rat (min (max q 0) 1) := by
  obtain ⟨c, hc⟩ : IsRat (numClamp01 ref (.rat q)) := ((isRat_rat q).exactMax (isRat_rat 0)).exactMin (isRat_rat 1)
  have hreal : (c : ℝ) = ((min (max q 0) 1 : ℚ) : ℝ) := by
    rw [← toReal_rat, ← hc, numClamp01_toReal]
    simp [numClamp01, numClamp]
  rw [hc, Rat.cast_injective hreal]

theorem levelCode_bounds (q : ℚ) :
    0 ≤ ⌊min (max q 0) 1 * 32768 + 1 / 2⌋ ∧ ⌊min (max q 0) 1 * 32768 + 1 / 2⌋ ≤ 32768 := by
  have hq0 : 0 ≤ min (max q 0) 1 := le_min (le_max_right _ _) zero_le_one
  have hq1 : min (max q 0) 1 ≤ 1 := min_le_right _ _
  exact rhu_bounds (by positivity) (by linarith)

/-- The level code of a rational level as a number. -/
theorem levelCode_toNat (q : ℚ) : (levelCode ref (numClamp01 ref (.rat q))).toNat =
    ⌊min (max q 0) 1 * 32768 + 1 / 2⌋.toNat := by
  have hcode : levelCode ref (.rat (min (max q 0) 1)) = BitVec.ofInt 16 ⌊min (max q 0) 1 * 32768 + 1 / 2⌋ := rfl
  obtain ⟨hlow, hhigh⟩ := levelCode_bounds q
  rw [numClamp01_rat, hcode, toNat_ofInt_code hlow hhigh]

theorem levelCode_le (q : ℚ) : (levelCode ref (numClamp01 ref (.rat q))).toNat ≤ 0x8000 := by
  have hbounds := levelCode_bounds q
  rw [levelCode_toNat]
  omega

/-! ## The block of R195 -/

theorem rateInv_ref_le (ms : Exact) : ref.rateInv ms ≤ 99 := referenceRateInv_le exactNum ms

/-- A register word from its two fields, as a number. -/
theorem code_append_toNat (x y : Code) : (x ++ y).toNat = x.toNat * 65536 + y.toNat := by
  rw [BitVec.toNat_append, ← Nat.shiftLeft_add_eq_or_of_lt y.isLt, Nat.shiftLeft_eq]

/-- LEGAL stores a stage word as it stands where neither field is above 0x8000 (R33, R306). -/
theorem legal_envStage_append {level rate : Code} (hlevel : level.toNat ≤ 0x8000) (hrate : rate.toNat ≤ 0x8000) (pool : Nat)
    (t : EnvType) (l : Line) (k : Fin 8) (old : ParamWord) :
    legal pool (.envStage t l k) old (level ++ rate) = level ++ rate := by
  have hcap : ∀ {c : Code}, c.toNat ≤ 0x8000 → capUq15 c = c := fun h => if_pos h
  rw [legal, legalUq15Pair, lo16, hi16, BitVec.extractLsb'_append_eq_left, BitVec.extractLsb'_append_eq_right, hcap hlevel,
    hcap hrate]

/-- The stage words of the adapter as pairs of a level code and a rate code (R195). -/
theorem adsr_stages (attack decay sustain release : Exact) : (adsr ref attack decay sustain release).stages =
    [ 0x8000#16 ++ rateCode (ref.rateInv attack),
      levelCode ref (numClamp01 ref sustain) ++ rateCode (ref.rateInv decay),
      levelCode ref (numClamp01 ref sustain) ++ 0x8000#16,
      0#16 ++ rateCode (ref.rateInv release),
      0#16 ++ 0x8000#16, 0#16 ++ 0x8000#16, 0#16 ++ 0x8000#16, 0#16 ++ 0x8000#16 ] := rfl

/-- Both fields of every stage word are codes of at most 0x8000. -/
theorem codes_of_mem_adsr_stages {attack decay release : Exact} {sustain : ℚ} {w : ParamWord}
    (hw : w ∈ (adsr ref attack decay (.rat sustain) release).stages) :
    ∃ level rate : Code, w = level ++ rate ∧ level.toNat ≤ 0x8000 ∧ rate.toNat ≤ 0x8000 := by
  simp only [adsr_stages, List.mem_cons, List.not_mem_nil, or_false] at hw
  rcases hw with rfl | rfl | rfl | rfl | rfl | rfl | rfl | rfl
  · exact ⟨_, _, rfl, by decide, rateCode_le (rateInv_ref_le _)⟩
  · exact ⟨_, _, rfl, levelCode_le _, rateCode_le (rateInv_ref_le _)⟩
  · exact ⟨_, _, rfl, levelCode_le _, by decide⟩
  · exact ⟨_, _, rfl, by decide, rateCode_le (rateInv_ref_le _)⟩
  all_goals exact ⟨0#16, 0x8000#16, rfl, by decide, by decide⟩

/-- Settles O25: the words are put together from codes of at most 0x8000. -/
theorem adsrBlockContents : Obligations.AdsrBlockContents := by
  rintro attack decay release sustain block rfl
  refine ⟨?words, rfl, rfl, fun w hw t l k old => ?legal, fun i hi => rateIndex_rateCode hi⟩
  case words =>
    simp only [adsr_stages, List.map_cons, List.map_nil, code_append_toNat, rateCode_toNat (rateInv_ref_le _),
      levelCode_toNat, BitVec.toNat_ofNat]
    norm_num
  case legal =>
    obtain ⟨level, rate, rfl, hlevel, hrate⟩ := codes_of_mem_adsr_stages hw
    exact legal_envStage_append hlevel hrate _ t l k old

end Sys2Proof.Machine
end

section
/-! SUPPORT. The voice, its gate operations and its status word (42_envelope.md R187, R188; 43_voice.md R220, R221, R236). -/

namespace Sys2Proof.Machine

variable {N Post : Type} (P : Config.Params N Post) (b : Bank)

/-! ## The allocator state of a voice (R52) -/

section states

variable {v w : Voice N Post}

theorem voiceState_eq_free_iff : voiceState P b v = .free ↔ dcaLive P b v = false := by
  unfold voiceState
  cases dcaLive P b v <;> cases v.rel <;> decide

theorem voiceState_eq_active (hlive : dcaLive P b v = true) (hrel : v.rel = false) : voiceState P b v = .active := by
  simp [voiceState, hlive, hrel]

theorem voiceState_eq_releasing (hlive : dcaLive P b v = true) (hrel : v.rel = true) : voiceState P b v = .releasing := by
  simp [voiceState, hlive, hrel]

/-- A voice lives by the activity of its DCA units alone. -/
theorem dcaLive_congr (h : ∀ l, (voiceEnv w .dca l).active = (voiceEnv v .dca l).active) : dcaLive P b w = dcaLive P b v :=
  congrArg₂ (fun one two => one || (line2On P b && two)) (h .one) (h .two)

end states

/-! ## The six units (R220) -/

/-- An operation on the six units is that operation on each, whatever the parameters. -/
theorem voiceEnv_mapEnvs_each (f : EnvType → Line → Env N → Env N) (v : Voice N Post) (t : EnvType) (l : Line) :
    voiceEnv (mapEnvs f v) t l = f t l (voiceEnv v t l) := by
  cases t <;> cases l <;> rfl

/-! ## VOICE_NOTE_ON (R187, R220) -/

theorem voiceEnv_voiceNoteOn (time : BitVec 64) (n : Note) (vel : N) (v : Voice N Post) (t : EnvType) (l : Line) :
    voiceEnv (voiceNoteOn P b time n vel v) t l = envNoteOn P b t l (voiceEnv v t l) := by
  unfold voiceNoteOn
  rw [voiceEnv_mapEnvs_each]
  rfl

/-- Settles O13: each unit is armed at stage 0 with E_ACTIVE set, so the DCA units are live and V_REL is clear. -/
theorem voiceNoteOnFields : Obligations.VoiceNoteOnFields := by
  rintro N Post P b time n vel v w rfl
  refine ⟨rfl, rfl, rfl, rfl, rfl, rfl, fun l => ?osc, fun t l => voiceEnv_voiceNoteOn P b time n vel v t l, ?state⟩
  case osc => cases l <;> rfl
  case state => exact voiceState_eq_active P b (Bool.true_or _) rfl

/-! ## VOICE_NOTE_OFF (R188, R221) -/

section noteOff

variable (v : Voice N Post) (t : EnvType) (l : Line)

theorem voiceEnv_voiceNoteOff : voiceEnv (voiceNoteOff P b v) t l = envNoteOff P b t l (voiceEnv v t l) := by
  unfold voiceNoteOff
  rw [voiceEnv_mapEnvs_each]
  rfl

theorem envNoteOff_dormant {e : Env N} (hactive : e.active = false) : envNoteOff P b t l e = e :=
  if_neg (by simp [hactive])

/-- A release neither starts nor ends a unit. -/
theorem envNoteOff_keeps_active (e : Env N) : (envNoteOff P b t l e).active = e.active := by
  unfold envNoteOff
  split
  · rfl
  · rfl

/-- A release neither starts nor ends a voice. -/
theorem dcaLive_voiceNoteOff : dcaLive P b (voiceNoteOff P b v) = dcaLive P b v :=
  dcaLive_congr P b fun l => by rw [voiceEnv_voiceNoteOff, envNoteOff_keeps_active]

end noteOff

/-- Settles O14: a unit is released where it is active, and a release leaves the voice as live as it was. -/
theorem voiceNoteOffFields : Obligations.VoiceNoteOffFields := by
  rintro N Post P b v w rfl
  have hlive := dcaLive_voiceNoteOff P b v
  refine ⟨rfl, rfl, rfl, rfl, rfl, rfl, fun l => ?osc, fun t l hactive => ?dormant, fun t l hactive => ?active,
    fun hfree => ?free, fun hsounding => ?releasing⟩
  case osc => cases l <;> rfl
  case dormant => rw [voiceEnv_voiceNoteOff, envNoteOff_dormant P b t l hactive]
  case active =>
    rw [voiceEnv_voiceNoteOff, envNoteOff_active P b t l hactive, envArm, hactive]
  case free =>
    rw [voiceState_eq_free_iff] at hfree ⊢
    exact hlive.trans hfree
  case releasing =>
    rw [ne_eq, voiceState_eq_free_iff, Bool.not_eq_false] at hsounding
    exact voiceState_eq_releasing P b (hlive.trans hsounding) rfl

/-! ## The status word (R236) -/

/-- Two fields side by side, as a number. -/
theorem append_toNat {m n : Nat} (x : BitVec m) (y : BitVec n) : (x ++ y).toNat = x.toNat * 2 ^ n + y.toNat := by
  rw [BitVec.toNat_append, ← Nat.shiftLeft_add_eq_or_of_lt y.isLt, Nat.shiftLeft_eq]

theorem voiceStatus_toNat (v : Voice N Post) : (voiceStatus P b v).toNat =
    v.note.toNat + (if voiceState P b v = .free then 0 else 256) + (if voiceState P b v = .releasing then 512 else 0) := by
  simp only [voiceStatus, append_toNat, isReleasing, isFree]
  cases voiceState P b v <;> simp <;> omega

theorem voiceStatus_bit8 (v : Voice N Post) : (voiceStatus P b v).getLsbD 8 = !isFree P b v := by
  simp only [voiceStatus, BitVec.getLsbD_append, BitVec.getLsbD_ofBool]
  simp

theorem voiceStatus_bit9 (v : Voice N Post) : (voiceStatus P b v).getLsbD 9 = isReleasing P b v := by
  simp only [voiceStatus, BitVec.getLsbD_append, BitVec.getLsbD_ofBool]
  simp

/-- Settles O34: the word is read field by field; a Releasing voice is not Free. -/
theorem statusWordBits : Obligations.StatusWordBits := by
  refine fun N Post P b v => ⟨voiceStatus_toNat P b v, fun hreleasing => ?_⟩
  rw [voiceStatus_bit9, isReleasing, decide_eq_true_iff] at hreleasing
  rw [voiceStatus_bit8, isFree, hreleasing]
  rfl

end Sys2Proof.Machine
end

section
/-! SUPPORT. The render of a voice (43_voice.md R224-R233): what each step of it leaves, whatever the parameters. -/

namespace Sys2Proof.Machine

variable {N Post : Type} (P : Config.Params N Post)

/-! ## The mix (R230) -/

section mixer

variable {b : Bank} (s1 s2 : N)

theorem mix_lineTwoOff (hline2 : line2On P b = false) : mix P b s1 s2 = s1 := if_neg (by simp [hline2])

theorem mix_sum (hline2 : line2On P b = true) (hring : ringOn P b = false) :
    mix P b s1 s2 = letI := P.num; s1 + s2 := by simp [mix, hline2, hring]

theorem mix_ring (hline2 : line2On P b = true) (hring : ringOn P b = true) :
    mix P b s1 s2 = letI := P.num; s1 * s2 := by simp [mix, hline2, hring]

end mixer

/-! ## Hard sync (R229) -/

section sync

variable {b : Bank} {w : Voice N Post}

theorem wraps_iff (o : Osc) : (acc o.ph o.inc).2 = true ↔ 2 ^ 32 ≤ o.ph.toNat + o.inc.toNat := by
  rw [acc_wrap_iff, Nat.one_le_div_iff (by positivity)]

theorem syncedOsc2_reset (hsync : syncOn P b = true) (hwrap : 2 ^ 32 ≤ w.osc1.ph.toNat + w.osc1.inc.toNat) :
    syncedOsc2 P b w = { ph := 0, inc := w.osc2.inc } :=
  if_pos (by rw [hsync, (wraps_iff w.osc1).2 hwrap]; rfl)

theorem syncedOsc2_running (h : syncOn P b = false ∨ w.osc1.ph.toNat + w.osc1.inc.toNat < 2 ^ 32) :
    syncedOsc2 P b w = w.osc2 := by
  refine if_neg fun hreset => ?_
  obtain ⟨hsync, hwrap⟩ := Bool.and_eq_true_iff.1 hreset
  rcases h with hoff | hbelow
  · exact Bool.false_ne_true (hoff.symm.trans hsync)
  · exact hbelow.not_ge ((wraps_iff w.osc1).1 hwrap)

/-- Hard sync leaves the increment alone. -/
theorem syncedOsc2_inc (w : Voice N Post) : (syncedOsc2 P b w).inc = w.osc2.inc := by
  unfold syncedOsc2
  split
  · rfl
  · rfl

end sync

/-! ## The voice between steps (2) and (3) of its render (R224-R226) -/

variable (s : Engine N Post) (v : Voice N Post)

/-- The voice whose oscillators a render runs: its envelopes have advanced and its increments are set. -/
def tunedVoice : Voice N Post := renderPitch P s (renderEnvelopes P s.active v)

theorem voiceRender_free (h : voiceState P s.active v = .free) : voiceRender P s v = (numOf P 0, v) :=
  if_pos (decide_eq_true h)

theorem voiceRender_sounding (h : voiceState P s.active v ≠ .free) : voiceRender P s v = renderMix P s (tunedVoice P s v) :=
  if_neg (by simpa [isFree] using h)

/-- The envelope step changes the six units and V_CTL, nothing else. -/
theorem renderEnvelopes_frame (b : Bank) : renderEnvelopes P b v =
    { mapEnvs (fun t l e => if v.ctl = 0 then envAdvance P b t l e else e) v with ctl := (v.ctl + 1) % P.envDecim } := by
  unfold renderEnvelopes
  split
  · rfl
  · rfl

/-- Steps (1) and (2) change the six units, V_CTL and the two increments, nothing else. -/
theorem tunedVoice_frame : tunedVoice P s v =
    { mapEnvs (fun t l e => if v.ctl = 0 then envAdvance P s.active t l e else e) v with
      ctl := (v.ctl + 1) % P.envDecim
      osc1 := { v.osc1 with inc := incr P (voiceFreq P s (tunedVoice P s v) .one) }
      osc2 := { v.osc2 with inc := incr P (voiceFreq P s (tunedVoice P s v) .two) } } := by
  have htuned : tunedVoice P s v =
      { renderEnvelopes P s.active v with
        osc1 := { (renderEnvelopes P s.active v).osc1 with inc := incr P (voiceFreq P s (tunedVoice P s v) .one) }
        osc2 := { (renderEnvelopes P s.active v).osc2 with inc := incr P (voiceFreq P s (tunedVoice P s v) .two) } } := rfl
  rw [renderEnvelopes_frame] at htuned
  exact htuned

theorem tunedVoice_note : (tunedVoice P s v).note = v.note := by rw [tunedVoice_frame]; rfl
theorem tunedVoice_vel : (tunedVoice P s v).vel = v.vel := by rw [tunedVoice_frame]; rfl
theorem tunedVoice_stamp : (tunedVoice P s v).stamp = v.stamp := by rw [tunedVoice_frame]; rfl
theorem tunedVoice_rel : (tunedVoice P s v).rel = v.rel := by rw [tunedVoice_frame]; rfl
theorem tunedVoice_post : (tunedVoice P s v).post = v.post := by rw [tunedVoice_frame]; rfl
theorem tunedVoice_ctl : (tunedVoice P s v).ctl = (v.ctl + 1) % P.envDecim := by rw [tunedVoice_frame]

theorem tunedVoice_env (t : EnvType) (l : Line) : voiceEnv (tunedVoice P s v) t l =
    if v.ctl = 0 then envAdvance P s.active t l (voiceEnv v t l) else voiceEnv v t l := by
  rw [tunedVoice_frame]
  exact voiceEnv_mapEnvs_each (fun t l e => if v.ctl = 0 then envAdvance P s.active t l e else e) v t l

theorem tunedVoice_osc (l : Line) : voiceOsc (tunedVoice P s v) l =
    { ph := (voiceOsc v l).ph, inc := incr P (voiceFreq P s (tunedVoice P s v) l) } := by
  conv_lhs => rw [tunedVoice_frame]
  cases l <;> rfl

theorem tunedVoice_osc1_ph : (tunedVoice P s v).osc1.ph = v.osc1.ph := by rw [tunedVoice_frame]
theorem tunedVoice_osc2_ph : (tunedVoice P s v).osc2.ph = v.osc2.ph := by rw [tunedVoice_frame]

/-! ## The voice after its render (R224, R226) -/

section rendered

variable {P s v} {r : Voice N Post} (hsound : voiceState P s.active v ≠ .free) (hr : r = (voiceRender P s v).2)

include hsound hr

/-- Steps (3) to (6) change the phases and V_POST, nothing else. -/
theorem rendered_frame :
    r = { tunedVoice P s v with osc1 := r.osc1, osc2 := r.osc2, post := r.post } := by
  rw [hr, voiceRender_sounding P s v hsound]
  rfl

theorem rendered_env (t : EnvType) (l : Line) :
    voiceEnv r t l = voiceEnv (tunedVoice P s v) t l := by
  rw [rendered_frame hsound hr]
  rfl

/-- FREQ reads the note and the PITCH units, which a render's last steps leave alone. -/
theorem rendered_freq (l : Line) :
    voiceFreq P s r l = voiceFreq P s (tunedVoice P s v) l := by
  rw [rendered_frame hsound hr]
  rfl

/-- Oscillator 1 advances by its new increment. -/
theorem rendered_osc1 :
    r.osc1 = { ph := (acc v.osc1.ph r.osc1.inc).1, inc := (tunedVoice P s v).osc1.inc } := by
  rw [hr, voiceRender_sounding P s v hsound, ← tunedVoice_osc1_ph P s v]
  rfl

theorem rendered_osc1_inc :
    r.osc1.inc = (tunedVoice P s v).osc1.inc := by rw [rendered_osc1 hsound hr]

/-- Oscillator 2 advances from where hard sync leaves it. -/
theorem rendered_osc2 :
    r.osc2 = { ph := (acc (syncedOsc2 P s.active (tunedVoice P s v)).ph r.osc2.inc).1
               inc := (tunedVoice P s v).osc2.inc } := by
  rw [hr, voiceRender_sounding P s v hsound, ← syncedOsc2_inc P (tunedVoice P s v)]
  rfl

theorem rendered_osc2_inc :
    r.osc2.inc = (tunedVoice P s v).osc2.inc := by rw [rendered_osc2 hsound hr]

/-- Both increments are those of the frequencies after the control tick. -/
theorem rendered_inc (l : Line) :
    (voiceOsc r l).inc = incr P (voiceFreq P s r l) := by
  have hkept : (voiceOsc r l).inc = (voiceOsc (tunedVoice P s v) l).inc := by
    cases l with
    | one => exact rendered_osc1_inc hsound hr
    | two => exact rendered_osc2_inc hsound hr
  rw [hkept, tunedVoice_osc, rendered_freq hsound hr]

end rendered

/-- Settles O30: a Free voice is not rendered; any other is the tuned voice but for phases and V_POST, and the reference V_POST has
one value only. -/
theorem voiceRenderUpdates : Obligations.VoiceRenderUpdates := by
  refine ⟨fun N Post P s v => voiceRender_free P s v, fun N Post P s v r hsound hr => ?sounding, fun s v => ?post⟩
  case sounding =>
    have hkept : r.ctl = (v.ctl + 1) % P.envDecim ∧ r.note = v.note ∧ r.vel = v.vel ∧ r.stamp = v.stamp ∧
        r.rel = v.rel := by
      rw [rendered_frame hsound hr]
      exact ⟨tunedVoice_ctl P s v, tunedVoice_note P s v, tunedVoice_vel P s v, tunedVoice_stamp P s v, tunedVoice_rel P s v⟩
    have hphase : r.osc1.ph.toNat = (v.osc1.ph.toNat + r.osc1.inc.toNat) % 2 ^ 32 :=
      (congrArg (fun o => o.ph.toNat) (rendered_osc1 hsound hr)).trans (acc_phase_toNat _ _)
    obtain ⟨hctl, hnote, hvel, hstamp, hrel⟩ := hkept
    exact ⟨fun t l => (rendered_env hsound hr t l).trans (tunedVoice_env P s v t l), hctl, hnote, hvel, hstamp, hrel,
      rendered_inc hsound hr, hphase⟩
  case post => exact Subsingleton.elim (α := Config.PostState) _ _

/-! ## Hard sync in a render (R229) -/

section renderedSync

variable {P s v} {r : Voice N Post} (hsound : voiceState P s.active v ≠ .free) (hr : r = (voiceRender P s v).2)

include hsound hr

/-- The phase and the increment that decide the wrap: the old phase and the new increment. -/
theorem tunedVoice_osc1_of_rendered : (tunedVoice P s v).osc1 = { ph := v.osc1.ph, inc := r.osc1.inc } := by
  rw [rendered_osc1_inc hsound hr, ← tunedVoice_osc1_ph P s v]

theorem tunedVoice_osc2_of_rendered : (tunedVoice P s v).osc2 = { ph := v.osc2.ph, inc := r.osc2.inc } := by
  rw [rendered_osc2_inc hsound hr, ← tunedVoice_osc2_ph P s v]

theorem syncedOsc2_of_wrap (hsync : syncOn P s.active = true) (hwrap : 2 ^ 32 ≤ v.osc1.ph.toNat + r.osc1.inc.toNat) :
    syncedOsc2 P s.active (tunedVoice P s v) = { ph := 0, inc := r.osc2.inc } := by
  rw [syncedOsc2_reset P hsync (by rwa [tunedVoice_osc1_of_rendered hsound hr]), tunedVoice_osc2_of_rendered hsound hr]

theorem syncedOsc2_of_running (hrun : syncOn P s.active = false ∨ v.osc1.ph.toNat + r.osc1.inc.toNat < 2 ^ 32) :
    syncedOsc2 P s.active (tunedVoice P s v) = { ph := v.osc2.ph, inc := r.osc2.inc } := by
  rw [syncedOsc2_running P (by rwa [tunedVoice_osc1_of_rendered hsound hr]), tunedVoice_osc2_of_rendered hsound hr]

theorem rendered_osc2_phase : r.osc2.ph.toNat =
    ((syncedOsc2 P s.active (tunedVoice P s v)).ph.toNat + r.osc2.inc.toNat) % 2 ^ 32 :=
  (congrArg (fun o : Osc => o.ph.toNat) (rendered_osc2 hsound hr)).trans (acc_phase_toNat _ _)

end renderedSync

/-- Settles O31: oscillator 2 advances from phase 0 or from its old phase. -/
theorem hardSyncResetsOscillatorTwo : Obligations.HardSyncResetsOscillatorTwo := by
  intro N Post P s v r hsound hr
  refine ⟨fun hsync hwrap => ?wrap, fun hrun => ?running⟩
  case wrap =>
    rw [rendered_osc2_phase hsound hr, syncedOsc2_of_wrap hsound hr hsync hwrap]
    exact congrArg (· % 2 ^ 32) (Nat.zero_add _)
  case running => rw [rendered_osc2_phase hsound hr, syncedOsc2_of_running hsound hr hrun]

/-! ## The sample of a render (R227-R230, R233) -/

/-- POST gets the mix of the tuned voice's two lines and V_POST, and gives the sample and the new V_POST. -/
theorem voiceRender_post {P : Config.Params N Post} {s : Engine N Post} {v : Voice N Post} {y : Line → N}
    (hsound : voiceState P s.active v ≠ .free)
    (hone : y .one = oscSample P s.active .one (tunedVoice P s v).osc1 (dcwAmount P s (tunedVoice P s v) .one))
    (htwo : y .two = oscSample P s.active .two (syncedOsc2 P s.active (tunedVoice P s v))
      (dcwAmount P s (tunedVoice P s v) .two)) :
    ((voiceRender P s v).1, (voiceRender P s v).2.post) = P.post s.active v.post (mix P s.active
      (lineSignal P s (tunedVoice P s v) .one (y .one)) (lineSignal P s (tunedVoice P s v) .two (y .two))) := by
  rw [voiceRender_sounding P s v hsound, hone, htwo, ← tunedVoice_post P s v]
  rfl

/-- Settles O32: the amounts of the statement are DCW_AMT and DCA_AMT of the tuned voice, and its sample of line 2 is that of
oscillator 2 as hard sync leaves it. -/
theorem voiceOutputMixes : Obligations.VoiceOutputMixes := by
  refine ⟨?render, fun b st m => rfl⟩
  intro N Post P s v r d a y m hsound hr hd ha hone hrun hwrap hoff hsum hring
  have hdcw : ∀ l, dcwAmount P s (tunedVoice P s v) l = d l := fun l => by
    rw [hd l, rendered_env hsound hr, ← tunedVoice_vel P s v, ← tunedVoice_note P s v]
    rfl
  have hdca : ∀ l, dcaAmount P s (tunedVoice P s v) l = a l := fun l => by
    rw [ha l, rendered_env hsound hr, ← tunedVoice_vel P s v]
    rfl
  have htwo : y .two = oscSample P s.active .two (syncedOsc2 P s.active (tunedVoice P s v)) (d .two) := by
    by_cases hreset : syncOn P s.active = true ∧ 2 ^ 32 ≤ v.osc1.ph.toNat + r.osc1.inc.toNat
    · obtain ⟨hsync, hover⟩ := hreset
      rw [syncedOsc2_of_wrap hsound hr hsync hover, hwrap hsync hover]
    · rw [not_and_or, Bool.not_eq_true, not_le] at hreset
      rw [syncedOsc2_of_running hsound hr hreset, hrun hreset]
  have hmix : mix P s.active (lineSignal P s (tunedVoice P s v) .one (y .one))
      (lineSignal P s (tunedVoice P s v) .two (y .two)) = m := by
    unfold lineSignal
    rw [hdca, hdca]
    cases hline2 : line2On P s.active with
    | false => rw [mix_lineTwoOff P _ _ hline2, hoff hline2]
    | true =>
      cases hmode : ringOn P s.active with
      | false => rw [mix_sum P _ _ hline2 hmode, hsum hline2 hmode]
      | true => rw [mix_ring P _ _ hline2 hmode, hring hline2 hmode]
  have hpost := voiceRender_post (y := y) hsound (by rw [hone, tunedVoice_osc1_of_rendered hsound hr, hdcw])
    (by rw [htwo, hdcw])
  rw [hmix, ← hr] at hpost
  exact Prod.ext_iff.1 hpost

/-! ## The bounds (R158, R237, R393) -/

/-- Settles O33: each sample is clamped, and the amounts and levels of a voice in range are at most 1. -/
theorem outputIsBounded : Obligations.OutputIsBounded := by
  refine ⟨oscSample_bounds, fun s v hv => abs_le.1 (abs_voiceRender_le s hv), fun s hs => ?_⟩
  have hout := abs_outL_le hs
  rw [mul_comm] at hout
  obtain ⟨hlow, hhigh⟩ := abs_le.1 hout
  exact ⟨renderVoices_outL_toReal s, rfl, hlow, hhigh⟩

end Sys2Proof.Machine
end

section
/-! SUPPORT. The allocator: the slot a note is given, the slot a release finds, and what NOTE_ON, NOTE_OFF and ALL_NOTES_OFF leave
(44_events.md R260-R268). -/

namespace Sys2Proof.Machine

variable {N Post : Type} (P : Config.Params N Post)

/-! ## Scans of a list by index -/

/-- A scan answers the lowest index of an element it looks for. -/
theorem findIdx?_of_lowest {α : Type} {p : α → Bool} {xs : List α} {v : Nat} {x : α} (hx : xs[v]? = some x) (hp : p x = true)
    (hbelow : ∀ (u : Nat) (y : α), u < v → xs[u]? = some y → p y = false) : xs.findIdx? p = some v := by
  obtain ⟨hv, rfl⟩ := List.getElem?_eq_some_iff.1 hx
  refine List.findIdx?_eq_some_iff_getElem.2 ⟨hv, hp, fun u hu => ?_⟩
  rw [Bool.not_eq_true]
  exact hbelow u _ hu (List.getElem?_eq_getElem (hu.trans hv))

/-- To modify an element that is there is to put its new value in its place. -/
theorem modify_of_getElem? {α : Type} {xs : List α} {v : Nat} {x : α} (hx : xs[v]? = some x) (f : α → α) :
    xs.modify v f = xs.set v (f x) := by
  rw [List.modify_eq_set_getElem?, hx]
  rfl

/-! ## The tests of the scans (R52) -/

section tests

variable (b : Bank) (y : Voice N Post) (n : Note)

theorem soundsNote_iff : (!isFree P b y && y.note == n) = true ↔ voiceState P b y ≠ .free ∧ y.note = n := by
  simp [isFree]

theorem not_soundsNote_iff : (!isFree P b y && y.note == n) = false ↔ voiceState P b y = .free ∨ y.note ≠ n := by
  rw [← Bool.not_eq_true, soundsNote_iff, not_and_or, not_not]

theorem isActive_iff : isActive P b y = true ↔ voiceState P b y = .active := decide_eq_true_iff

theorem playsNote_iff : (isActive P b y && y.note == n) = true ↔ voiceState P b y = .active ∧ y.note = n := by
  rw [Bool.and_eq_true, isActive_iff, beq_iff_eq]

theorem not_playsNote_iff : (isActive P b y && y.note == n) = false ↔ (voiceState P b y = .active → y.note ≠ n) := by
  rw [← Bool.not_eq_true, playsNote_iff, not_and]

end tests

/-! ## The slots of R262-R266 -/

section slots

variable {s : Engine N Post} {n : Note} {v : Nat} {x : Voice N Post}

/-- R262 case 1, R263. -/
theorem retriggerSlot_eq_some (hx : s.voices[v]? = some x) (hsound : voiceState P s.active x ≠ .free) (hnote : x.note = n)
    (hbelow : ∀ (u : Nat) (y : Voice N Post), u < v → s.voices[u]? = some y → voiceState P s.active y = .free ∨ y.note ≠ n) :
    retriggerSlot P s n = some v :=
  findIdx?_of_lowest hx ((soundsNote_iff P s.active x n).2 ⟨hsound, hnote⟩) fun u y hu hy =>
    (not_soundsNote_iff P s.active y n).2 (hbelow u y hu hy)

theorem retriggerSlot_eq_none_iff :
    retriggerSlot P s n = none ↔ ∀ y ∈ s.voices, voiceState P s.active y = .free ∨ y.note ≠ n := by
  simp only [retriggerSlot, List.findIdx?_eq_none_iff, not_soundsNote_iff]

theorem limitedVoices_getElem?_iff (u : Nat) (y : Voice N Post) :
    (limitedVoices P s)[u]? = some y ↔ u < voiceLimit P s.active ∧ s.voices[u]? = some y := by
  simp [limitedVoices, List.getElem?_take]

/-- A test that fails on every slot below VLIM finds none there. -/
theorem limitedVoices_findIdx?_none {p : Voice N Post → Bool}
    (h : ∀ (u : Nat) (y : Voice N Post), u < voiceLimit P s.active → s.voices[u]? = some y → p y = false) :
    (limitedVoices P s).findIdx? p = none := by
  refine List.findIdx?_eq_none_iff.2 fun y hy => ?_
  obtain ⟨u, hu⟩ := List.mem_iff_getElem?.1 hy
  obtain ⟨hlim, hslot⟩ := (limitedVoices_getElem?_iff P u y).1 hu
  exact h u y hlim hslot

/-- A test finds the lowest slot below VLIM that passes it. -/
theorem limitedVoices_findIdx?_some {p : Voice N Post → Bool} (hlim : v < voiceLimit P s.active) (hx : s.voices[v]? = some x)
    (hp : p x = true) (hbelow : ∀ (u : Nat) (y : Voice N Post), u < v → s.voices[u]? = some y → p y = false) :
    (limitedVoices P s).findIdx? p = some v :=
  findIdx?_of_lowest ((limitedVoices_getElem?_iff P v x).2 ⟨hlim, hx⟩) hp fun u y hu hy =>
    hbelow u y hu ((limitedVoices_getElem?_iff P u y).1 hy).2

/-- R264. -/
theorem freeSlot_eq_some (hlim : v < voiceLimit P s.active) (hx : s.voices[v]? = some x) (hfree : voiceState P s.active x = .free)
    (hbelow : ∀ (u : Nat) (y : Voice N Post), u < v → s.voices[u]? = some y → voiceState P s.active y ≠ .free) :
    freeSlot P s = some v :=
  limitedVoices_findIdx?_some P hlim hx (decide_eq_true hfree) fun u y hu hy => decide_eq_false (hbelow u y hu hy)

theorem freeSlot_eq_none (h : ∀ (u : Nat) (y : Voice N Post), u < voiceLimit P s.active → s.voices[u]? = some y →
    voiceState P s.active y ≠ .free) : freeSlot P s = none :=
  limitedVoices_findIdx?_none P fun u y hu hy => decide_eq_false (h u y hu hy)

/-- The least stamp is the greatest lower bound of the stamps. -/
theorem le_leastStamp_iff (m : Nat) (vs : List (Voice N Post)) (least : Nat) :
    m ≤ leastStamp vs least ↔ m ≤ least ∧ ∀ y ∈ vs, m ≤ y.stamp.toNat := by
  induction vs generalizing least with
  | nil => simp [leastStamp]
  | cons y vs ih =>
    have htail : leastStamp (y :: vs) least = leastStamp vs (min least y.stamp.toNat) := rfl
    rw [htail, ih, le_min_iff, List.forall_mem_cons, and_assoc]

/-- A least element's stamp is the least stamp. -/
theorem leastStamp_eq {vs : List (Voice N Post)} (hx : x ∈ vs) (hleast : ∀ y ∈ vs, x.stamp.toNat ≤ y.stamp.toNat) :
    leastStamp vs (2 ^ 64) = x.stamp.toNat := by
  obtain ⟨-, hlower⟩ := (le_leastStamp_iff _ vs (2 ^ 64)).1 le_rfl
  exact le_antisymm (hlower x hx) ((le_leastStamp_iff _ vs _).2 ⟨x.stamp.isLt.le, hleast⟩)

/-- R265 with STEAL = 0: the least pair of stamp and index. -/
theorem oldestSlot_eq (hlim : v < voiceLimit P s.active) (hx : s.voices[v]? = some x)
    (hleast : ∀ (u : Nat) (y : Voice N Post), u < voiceLimit P s.active → s.voices[u]? = some y →
      x.stamp.toNat < y.stamp.toNat ∨ (x.stamp = y.stamp ∧ v ≤ u)) : oldestSlot P s = v := by
  have hmem : x ∈ limitedVoices P s := List.mem_of_getElem? ((limitedVoices_getElem?_iff P v x).2 ⟨hlim, hx⟩)
  have hstamp : leastStamp (limitedVoices P s) (2 ^ 64) = x.stamp.toNat := by
    refine leastStamp_eq hmem fun y hy => ?_
    obtain ⟨u, hu⟩ := List.mem_iff_getElem?.1 hy
    obtain ⟨hulim, hslot⟩ := (limitedVoices_getElem?_iff P u y).1 hu
    rcases hleast u y hulim hslot with hlt | ⟨heq, -⟩
    · exact hlt.le
    · rw [heq]
  have hscan : (limitedVoices P s).findIdx? (fun y => y.stamp.toNat == x.stamp.toNat) = some v := by
    refine limitedVoices_findIdx?_some P hlim hx (beq_self_eq_true _) fun u y hu hy => ?_
    rcases hleast u y (hu.trans hlim) hy with hlt | ⟨-, hle⟩
    · exact beq_false_of_ne hlt.ne'
    · exact absurd hu hle.not_gt
  obtain ⟨-, hindex⟩ := List.findIdx?_eq_some_iff_findIdx_eq.1 hscan
  unfold oldestSlot
  rw [hstamp, hindex]

/-- R266. -/
theorem noteOffSlot_eq_some (hx : s.voices[v]? = some x) (hactive : voiceState P s.active x = .active) (hnote : x.note = n)
    (hbelow : ∀ (u : Nat) (y : Voice N Post), u < v → s.voices[u]? = some y → voiceState P s.active y = .active → y.note ≠ n) :
    noteOffSlot P s n = some v :=
  findIdx?_of_lowest hx ((playsNote_iff P s.active x n).2 ⟨hactive, hnote⟩) fun u y hu hy =>
    (not_playsNote_iff P s.active y n).2 (hbelow u y hu hy)

theorem noteOffSlot_eq_none_iff :
    noteOffSlot P s n = none ↔ ∀ y ∈ s.voices, voiceState P s.active y = .active → y.note ≠ n := by
  simp only [noteOffSlot, List.findIdx?_eq_none_iff, not_playsNote_iff]

end slots

/-! ## The choice of a slot (R262, R265) -/

section choice

variable {s : Engine N Post} {n : Note} {v : Nat}

theorem allocSelect_retrigger (h : retriggerSlot P s n = some v) : allocSelect P s n = (v, s) := by
  simp only [allocSelect, h]

theorem allocSelect_free (hnone : retriggerSlot P s n = none) (h : freeSlot P s = some v) : allocSelect P s n = (v, s) := by
  simp only [allocSelect, hnone, h]

theorem allocSelect_steal (hnone : retriggerSlot P s n = none) (hfull : freeSlot P s = none) :
    allocSelect P s n = stealSelect P s := by
  simp only [allocSelect, hnone, hfull]

theorem stealSelect_oldest (hsteal : roundRobinSteal P s.active = false) : stealSelect P s = (oldestSlot P s, s) :=
  if_neg (by simp [hsteal])

theorem stealSelect_releasing (hsteal : roundRobinSteal P s.active = true)
    (h : (limitedVoices P s).findIdx? (isReleasing P s.active) = some v) : stealSelect P s = (v, s) := by
  simp only [stealSelect, hsteal, h, if_true]

theorem stealSelect_cursor (hsteal : roundRobinSteal P s.active = true)
    (h : (limitedVoices P s).findIdx? (isReleasing P s.active) = none) :
    stealSelect P s = ((s.rrCursor + 1) % voiceLimit P s.active,
      { s with rrCursor := (s.rrCursor + 1) % voiceLimit P s.active }) := by
  simp only [stealSelect, hsteal, h, if_true]

end choice

/-! ## NOTE_ON with the arpeggiator off (R260) -/

/-- With the slot and the cursor chosen, NOTE_ON triggers that slot, and its event is received. -/
theorem exec_noteOn_select {s : State} {n : Note} {vel : Code} {v cursor : Nat} {x : RefVoice} (harp : arpOn ref s.active = false)
    (hx : s.voices[v]? = some x) (hselect : allocSelect ref s.toEngine n = (v, { s.toEngine with rrCursor := cursor })) :
    exec (.noteOn n vel) s =
      .next { s with
        rrCursor := cursor
        voices := s.voices.set v (voiceNoteOn ref s.active s.time n (.rat (uq15 vel)) x)
        events := s.events ++ [.noteOn n (.rat (uq15 vel))] } := by
  have hkey : keyDown ref n vel s.toEngine = allocNoteOn ref s.toEngine n (.rat (uq15 vel)) := if_neg (by simp [harp])
  rw [exec_eq_engineExec, State.onEngine, engineExec, hkey, allocNoteOn_frame, hselect, modify_of_getElem? hx]

/-- Settles O9: the scan of the whole pool comes first. -/
theorem noteOnRetriggers : Obligations.NoteOnRetriggers := by
  intro s n vel v x harp hx hsound hnote hbelow
  have hslot : retriggerSlot ref s.toEngine n = some v := retriggerSlot_eq_some ref hx hsound hnote hbelow
  exact exec_noteOn_select harp hx (allocSelect_retrigger ref hslot)

/-- Settles O10: with nothing to retrigger, the scan for a Free slot below VLIM decides. -/
theorem noteOnTakesLowestFree : Obligations.NoteOnTakesLowestFree := by
  intro s n vel v x harp hnew hlim hx hfree hbelow
  have hnone : retriggerSlot ref s.toEngine n = none := (retriggerSlot_eq_none_iff ref).2 hnew
  have hslot : freeSlot ref s.toEngine = some v := freeSlot_eq_some ref hlim hx hfree hbelow
  exact exec_noteOn_select harp hx (allocSelect_free ref hnone hslot)

/-- Settles O11: with nothing to retrigger and no Free slot, the oldest slot is stolen. -/
theorem noteOnStealsOldest : Obligations.NoteOnStealsOldest := by
  intro s n vel v x harp hsteal hnew hfull hlim hx hleast
  have hselect : allocSelect ref s.toEngine n = stealSelect ref s.toEngine :=
    allocSelect_steal ref ((retriggerSlot_eq_none_iff ref).2 hnew) (freeSlot_eq_none ref hfull)
  have hslot : oldestSlot ref s.toEngine = v := oldestSlot_eq ref hlim hx hleast
  rw [stealSelect_oldest ref hsteal, hslot] at hselect
  exact exec_noteOn_select harp hx hselect

/-- Settles O12: the scan for a Releasing slot below VLIM comes before the cursor. -/
theorem noteOnStealsRoundRobin : Obligations.NoteOnStealsRoundRobin := by
  intro s n vel v x harp hsteal hnew hfull hlim hx
  have hselect : allocSelect ref s.toEngine n = stealSelect ref s.toEngine :=
    allocSelect_steal ref ((retriggerSlot_eq_none_iff ref).2 hnew) (freeSlot_eq_none ref hfull)
  refine ⟨fun hreleasing hbelow => ?releasing, fun hnone hcursor => ?cursor⟩
  case releasing =>
    have hscan : (limitedVoices ref s.toEngine).findIdx? (isReleasing ref s.active) = some v :=
      limitedVoices_findIdx?_some ref hlim hx (decide_eq_true hreleasing) fun u y hu hy => decide_eq_false (hbelow u y hu hy)
    exact exec_noteOn_select harp hx (hselect.trans (stealSelect_releasing ref hsteal hscan))
  case cursor =>
    have hscan : (limitedVoices ref s.toEngine).findIdx? (isReleasing ref s.active) = none :=
      limitedVoices_findIdx?_none ref fun u y hu hy => decide_eq_false (hnone u y hu hy)
    rw [stealSelect_cursor ref hsteal hscan, ← hcursor] at hselect
    exact exec_noteOn_select harp hx hselect

/-! ## One voice per note (R263) -/

section oneVoice

variable {P} {s : Engine N Post} {n : Note}

/-- A note that already sounds is given the slot where it sounds. -/
theorem allocSelect_of_sounding {j : Nat} {y : Voice N Post} (hone : OneVoicePerNote P s) (hy : s.voices[j]? = some y)
    (hsound : voiceState P s.active y ≠ .free) (hnote : y.note = n) : (allocSelect P s n).1 = j := by
  have hslot : retriggerSlot P s n = some j := by
    refine retriggerSlot_eq_some P hy hsound hnote fun u z hu hz => ?_
    by_contra hother
    obtain ⟨hzsound, hznote⟩ := not_or.1 hother
    exact hu.ne (hone u j z y hz hy hzsound hsound ((not_not.1 hznote).trans hnote.symm))
  rw [allocSelect_retrigger P hslot]

/-- After an allocation a slot is the chosen one, with the note, or another one, as it was. -/
theorem allocNoteOn_slot {vel : N} {i : Nat} {x : Voice N Post} (hx : (allocNoteOn P s n vel).voices[i]? = some x) :
    ((allocSelect P s n).1 = i ∧ x.note = n) ∨ ((allocSelect P s n).1 ≠ i ∧ s.voices[i]? = some x) := by
  rw [allocNoteOn_frame] at hx
  by_cases hchosen : (allocSelect P s n).1 = i
  · rw [hchosen, List.getElem?_modify_eq] at hx
    obtain ⟨y, -, rfl⟩ := Option.map_eq_some_iff.1 hx
    exact .inl ⟨hchosen, rfl⟩
  · rw [List.getElem?_modify_ne _ _ hchosen] at hx
    exact .inr ⟨hchosen, hx⟩

end oneVoice

/-- Settles O17: a slot other than the chosen one that sounds the note would itself have been chosen. -/
theorem allocationKeepsOneVoicePerNote : Obligations.AllocationKeepsOneVoicePerNote := by
  intro N Post P s n vel hone i j x y hx hy hxsound hysound hnote
  have hactive : (allocNoteOn P s n vel).active = s.active := by rw [allocNoteOn_frame]
  rw [hactive] at hxsound hysound
  rcases allocNoteOn_slot hx with ⟨hi, hxn⟩ | ⟨hi, hx⟩ <;> rcases allocNoteOn_slot hy with ⟨hj, hyn⟩ | ⟨hj, hy⟩
  · exact hi.symm.trans hj
  · exact absurd (allocSelect_of_sounding hone hy hysound (hnote.symm.trans hxn)) hj
  · exact absurd (allocSelect_of_sounding hone hx hxsound (hnote.trans hyn)) hi
  · exact hone i j x y hx hy hxsound hysound hnote

/-! ## NOTE_OFF with the arpeggiator off (R261, R266) -/

theorem exec_noteOff_alloc {s : State} (n : Note) (harp : arpOn ref s.active = false) :
    exec (.noteOff n) s = .next (s.onEngine fun t => allocNoteOff ref t n) := by
  have hkey : keyUp ref n s.toEngine = allocNoteOff ref s.toEngine n := if_neg (by simp [harp])
  rw [exec_eq_engineExec, State.onEngine, engineExec, hkey]
  rfl

/-- Where the scan finds a slot, `Alloc.noteOff` releases it. -/
theorem allocNoteOff_some {s : Engine N Post} {n : Note} {v : Nat} {x : Voice N Post} (h : noteOffSlot P s n = some v)
    (hx : s.voices[v]? = some x) : allocNoteOff P s n =
      { s with voices := s.voices.set v (voiceNoteOff P s.active x), events := s.events ++ [.noteOff n] } := by
  have hrelease : releaseNote P s n = releaseSlot P s v := by simp only [releaseNote, h]
  rw [allocNoteOff_frame, hrelease, releaseSlot_voices, modify_of_getElem? hx]

/-- Settles O15: the scan of the whole pool for an Active slot with the note decides. -/
theorem noteOffReleasesLowestActive : Obligations.NoteOffReleasesLowestActive := by
  refine ⟨fun s n v x harp hx hactive hnote hbelow => ?found, fun s n harp hnone => ?none⟩
  case found =>
    have hslot : noteOffSlot ref s.toEngine n = some v := noteOffSlot_eq_some ref hx hactive hnote hbelow
    rw [exec_noteOff_alloc n harp, State.onEngine, allocNoteOff_some ref hslot hx]
  case none =>
    have hslot : noteOffSlot ref s.toEngine n = none := (noteOffSlot_eq_none_iff ref).2 hnone
    rw [exec_noteOff_alloc n harp, State.onEngine, allocNoteOff_none ref hslot]

/-! ## ALL_NOTES_OFF (R268) -/

theorem allNotesOff_frame (s : Engine N Post) : allNotesOff P s =
    { s with held := [], arpRun := false, arpGateOpen := false, voices := (releaseActive P s).voices } := rfl

/-- Settles O16: the release maps each voice on its own. -/
theorem allNotesOffReleasesActive : Obligations.AllNotesOffReleasesActive := by
  intro s
  refine ⟨_, exec_eq_engineExec .allNotesOff s, ?frame, ?length, fun v x hx => ?slot⟩
  case frame => rw [State.onEngine, engineExec, allNotesOff_frame]
  case length => exact List.length_map _
  case slot =>
    have hslot : (s.onEngine (allNotesOff ref)).voices[v]? =
        some (if isActive ref s.active x then voiceNoteOff ref s.active x else x) := by
      rw [onEngine_toEngine, allNotesOff_frame, releaseActive_voices, List.getElem?_map, hx, Option.map_some]
    refine ⟨fun hactive => ?_, fun hother => ?_⟩
    · rwa [if_pos ((isActive_iff ref s.active x).2 hactive)] at hslot
    · rwa [if_neg (mt (isActive_iff ref s.active x).1 hother)] at hslot

end Sys2Proof.Machine
end

section
/-! SUPPORT. The example words of the spec, and the four setters with their operand formats (00_scope.md R12; 30_encoding.md
R106; 44_events.md R270-R273). -/

namespace Sys2Proof.Machine

/-- Settles O3: each word and record is closed, so its fields compute. -/
theorem specWordsDecode : Obligations.SpecWordsDecode := by
  unfold Obligations.SpecWordsDecode
  decide

/-! ## The operand formats at their bounds (R12) -/

/-- A UQ1.15 code from 0x8000 on is 1. -/
theorem uq15_saturated {c : Code} (h : 0x8000 ≤ c.toNat) : uq15 c = 1 := by
  rw [uq15, min_eq_right h]
  norm_num

/-- An SQ1.14 code from 0x4001 to 0x7FFF is 1. -/
theorem sq114_high {c : Code} (hlo : 0x4001 ≤ c.toNat) (hhi : c.toNat ≤ 0x7FFF) : sq114 c = 1 := by
  have hint : (c.toInt : ℚ) = c.toNat := by rw [code_toInt, if_neg (by omega), sub_zero]
  have hval : (1 : ℚ) ≤ (c.toInt : ℚ) / 16384 := by
    have hcast : (0x4001 : ℚ) ≤ c.toNat := by exact_mod_cast hlo
    linarith
  rw [sq114, clamp, max_eq_left (by linarith), min_eq_right hval]

/-- An SQ1.14 code from 0x8000 to 0xC000 is -1; R273's corner case ends one code below. -/
theorem sq114_low {c : Code} (hlo : 0x8000 ≤ c.toNat) (hhi : c.toNat ≤ 0xC000) : sq114 c = -1 := by
  have hint : (c.toInt : ℚ) = c.toNat - 2 ^ 16 := by rw [code_toInt, if_pos (by omega)]
  have hval : (c.toInt : ℚ) / 16384 ≤ -1 := by
    have hcast : (c.toNat : ℚ) ≤ 0xC000 := by exact_mod_cast hhi
    linarith
  rw [sq114, clamp, max_eq_right hval, min_eq_left (by norm_num)]

/-! ## The setters (R270-R273) -/

section setters

variable (c : Code) (s : State)

theorem exec_setModwheel : exec (.setModwheel c) s = .next { s with modWheel := .rat (uq15 c) } :=
  exec_eq_engineExec (.setModwheel c) s

theorem exec_setAftertouch : exec (.setAftertouch c) s = .next { s with aftertouch := .rat (uq15 c) } :=
  exec_eq_engineExec (.setAftertouch c) s

theorem exec_setPitchbend : exec (.setPitchbend c) s = .next { s with pitchBend := .rat (sq78 c) } :=
  exec_eq_engineExec (.setPitchbend c) s

theorem exec_setLfo : exec (.setLfo c) s = .next { s with lfoIn := .rat (sq114 c) } :=
  exec_eq_engineExec (.setLfo c) s

end setters

/-- R106: the setters' opcodes, with VAL in bits [15:0]. -/
theorem decodeWord_setter (w : OpWord) :
    ((w.extractLsb' 60 4).toNat = 4 → decodeWord w = .setModwheel (w.extractLsb' 0 16)) ∧
    ((w.extractLsb' 60 4).toNat = 5 → decodeWord w = .setAftertouch (w.extractLsb' 0 16)) ∧
    ((w.extractLsb' 60 4).toNat = 6 → decodeWord w = .setPitchbend (w.extractLsb' 0 16)) ∧
    ((w.extractLsb' 60 4).toNat = 11 → decodeWord w = .setLfo (w.extractLsb' 0 16)) := by
  refine ⟨fun hop => ?_, fun hop => ?_, fun hop => ?_, fun hop => ?_⟩ <;> simp only [decodeWord, hop]

/-- The five example words of R270-R273. -/
theorem setterExamples (s : State) :
    exec (decodeWord 0x4000000000004000#64) s = .next { s with modWheel := .rat (1 / 2) } ∧
    exec (decodeWord 0x5000000000008000#64) s = .next { s with aftertouch := .rat 1 } ∧
    exec (decodeWord 0x6000000000000200#64) s = .next { s with pitchBend := .rat 2 } ∧
    exec (decodeWord 0x600000000000FE00#64) s = .next { s with pitchBend := .rat (-2) } ∧
    exec (decodeWord 0xB00000000000C000#64) s = .next { s with lfoIn := .rat (-1) } := by
  have hhalf : uq15 0x4000#16 = 1 / 2 := by norm_num [uq15]
  have hup : sq78 0x0200#16 = 2 := by norm_num [sq78, code_toInt]
  have hdown : sq78 0xFE00#16 = -2 := by norm_num [sq78, code_toInt]
  refine ⟨?half, ?one, ?up, ?down, ?low⟩
  case half => rw [← hhalf]; exact exec_setModwheel 0x4000#16 s
  case one => rw [← uq15_saturated (c := 0x8000#16) (by decide)]; exact exec_setAftertouch 0x8000#16 s
  case up => rw [← hup]; exact exec_setPitchbend 0x0200#16 s
  case down => rw [← hdown]; exact exec_setPitchbend 0xFE00#16 s
  case low => rw [← sq114_low (c := 0xC000#16) (by decide) (by decide)]; exact exec_setLfo 0xC000#16 s

/-- Settles O8: each setter is one latch, and each corner case is its format's bound. -/
theorem settersLatch : Obligations.SettersLatch := by
  refine ⟨fun c s => ⟨exec_setModwheel c s, exec_setAftertouch c s, exec_setPitchbend c s, exec_setLfo c s⟩, decodeWord_setter,
    fun c s h => ?saturated, fun c s hlo hhi => ?high, fun c s hlo hhi => ?low, setterExamples⟩
  case saturated => rw [exec_setModwheel, exec_setAftertouch, uq15_saturated h]; exact ⟨rfl, rfl⟩
  case high => rw [exec_setLfo, sq114_high hlo hhi]
  case low => rw [exec_setLfo, sq114_low hlo (by omega)]

end Sys2Proof.Machine
end

section
/-! SUPPORT. The host's operations (45_protocol.md R300-R302): the unmapped addresses of 10_state.md R46, a write that changes
nothing, LEGAL over a word it has stored (20_memory.md R78), and the FIFO. -/

namespace Sys2Proof.Machine

/-! ## Unmapped addresses (R46) -/

theorem envRegAt_none (t : EnvType) (l : Line) {off : Nat} (h : 11 ≤ off) : envRegAt t l off = none := by
  unfold envRegAt
  rw [if_neg (by omega)]
  split
  case h_4 => rfl
  all_goals omega

theorem voiceRegAt_none {a : Nat} (h : a < 0x100 ∨ (0x10C ≤ a ∧ a ≤ 0x10F) ∨ (0x111 ≤ a ∧ a ≤ 0x11F) ∨ 0x125 ≤ a) :
    voiceRegAt a = none := by
  simp (disch := omega) only [voiceRegAt, if_neg]

/-- The unmapped addresses: the ends of the envelope blocks, and the gaps from 0x0C0 on. -/
theorem regAt_none {a : Nat} (h : (a < 0x0C0 ∧ 0x0B ≤ a % 32) ∨ (0x0C0 ≤ a ∧ a ≤ 0x0FF) ∨ (0x10C ≤ a ∧ a ≤ 0x10F) ∨
    (0x111 ≤ a ∧ a ≤ 0x11F) ∨ (0x125 ≤ a ∧ a ≤ 0x17F) ∨ 0x200 ≤ a) : regAt a = none := by
  by_cases henv : a < 0x0C0
  · unfold regAt
    split_ifs <;> exact envRegAt_none _ _ (by omega)
  · simp (disch := omega) only [regAt, if_neg]
    exact voiceRegAt_none (by omega)

theorem regAddr_lt (r : Reg) : regAddr r < 2 ^ 10 := by
  by_contra h
  have hmapped := regAt_regAddr r
  rw [regAt_none (by omega)] at hmapped
  cases hmapped

/-- A register's address as PARAM_WRITE carries it. -/
theorem regAt_paramAddr (r : Reg) : regAt (BitVec.ofNat 10 (regAddr r)).toNat = some r := by
  rw [BitVec.toNat_ofNat, Nat.mod_eq_of_lt (regAddr_lt r), regAt_regAddr]

/-! ## Writes that change nothing -/

variable {pool : Nat}

theorem wordAt_of_below {lo a : Nat} {b : Bank} (hb : cellsOk pool lo b = true) (h : a < lo) :
    wordAt pool b a = resetWordAt pool a := by
  rw [wordAt, lookup_none_of_below hb h, Option.getD_none]

theorem wordAt_cons_same (a : Nat) (u : ParamWord) (rest : Bank) : wordAt pool ((a, u) :: rest) a = u := by
  simp [wordAt]

theorem wordAt_cons_other {a x : Nat} (h : a ≠ x) (u : ParamWord) (rest : Bank) :
    wordAt pool ((x, u) :: rest) a = wordAt pool rest a := by
  simp [wordAt, List.lookup_cons, beq_false_of_ne h]

/-- To insert the word that an address holds changes nothing. -/
theorem bankInsert_wordAt {lo : Nat} {b : Bank} (hb : cellsOk pool lo b = true) (a : Nat) :
    bankInsert pool b a (wordAt pool b a) = b := by
  induction b generalizing lo with
  | nil => exact if_pos rfl
  | cons c rest ih =>
    obtain ⟨x, u⟩ := c
    simp only [cellsOk, Bool.and_eq_true, decide_eq_true_eq] at hb
    obtain ⟨⟨-, hword⟩, hrest⟩ := hb
    rcases lt_trichotomy a x with hlt | rfl | hgt
    · have hreset : wordAt pool rest a = resetWordAt pool a := wordAt_of_below hrest (by omega)
      rw [wordAt_cons_other hlt.ne, hreset, bankInsert, if_pos hlt, if_pos rfl]
    · rw [wordAt_cons_same, bankInsert, if_neg (lt_irrefl a), if_pos rfl, if_neg hword]
    · rw [wordAt_cons_other hgt.ne', bankInsert, if_neg hgt.not_gt, if_neg hgt.ne', ih hrest]

/-- To write the word that a register holds changes nothing. -/
theorem bankWrite_bankRead {b : Bank} (hb : Bank.wf pool b = true) (r : Reg) :
    bankWrite pool b r (bankRead pool b r) = b := by
  rw [bankRead_eq_wordAt]
  exact bankInsert_wordAt hb (regAddr r)

/-- A write again changes nothing more (R78). -/
theorem bankWrite_again {b : Bank} (hb : Bank.wf pool b = true) (r : Reg) (w : ParamWord) :
    bankWrite pool (bankWrite pool b r w) r w = bankWrite pool b r w := by
  simpa only [bankRead_bankWrite_same hb] using bankWrite_bankRead (bankWrite_wf hb r w) r

/-! ## LEGAL again (R78, R306) -/

theorem legalSustain_again (old d : BitVec 4) : legalSustain (legalSustain old d) d = legalSustain old d := by
  unfold legalSustain
  split <;> rfl

theorem legalEnd_again (old d : BitVec 4) : legalEnd (legalEnd old d) d = legalEnd old d := by
  unfold legalEnd
  split <;> rfl

/-- LEGAL reads the old word for a sustain or an end point alone, and there the word it stored serves as well. -/
theorem legal_again (r : Reg) (old d : ParamWord) : legal pool r (legal pool r old d) d = legal pool r old d := by
  cases r with
  | envSustain t l => simp only [legal, BitVec.extractLsb'_append_eq_right, legalSustain_again]
  | envEnd t l => simp only [legal, BitVec.extractLsb'_append_eq_right, legalEnd_again]
  | _ => rfl

/-! ## The host's operations (R300-R302) -/

section effects

variable {N Post : Type} {P : Config.Params N Post} {s : Engine N Post}

theorem writeShadow_unmapped {a : ParamAddr} (h : regAt a.toNat = none) (d : ParamWord) : writeShadow P a d s = s := by
  simp only [writeShadow, h]

theorem writeShadow_mapped {a : ParamAddr} {r : Reg} (h : regAt a.toNat = some r) (d : ParamWord) :
    writeShadow P a d s =
      { s with shadow := bankWrite P.pool s.shadow r (legal P.pool r (bankRead P.pool s.shadow r) d) } := by
  simp only [writeShadow, h]

theorem writeShadow_frame (a : ParamAddr) (d : ParamWord) :
    writeShadow P a d s = { s with shadow := (writeShadow P a d s).shadow } := by
  unfold writeShadow
  split <;> rfl

theorem pushRecord_room (h : s.cmdq.length < P.cmdqCap) (r : Rec) :
    pushRecord P r s = { s with cmdq := s.cmdq ++ [r] } := if_pos h

end effects

/-- What an instruction does in a state, from its effect on the engine. -/
theorem exec_eq_next {i : Instr} {s : State} {e : RefEngine} (h : engineExec ref i s.toEngine = e) :
    exec i s = .next { s with toEngine := e } := by
  rw [exec_eq_engineExec, onEngine_eq h]

/-- PARAM_WRITE changes nothing but SHADOW. -/
theorem exec_paramWrite_frame (a : ParamAddr) (d : ParamWord) (s : State) :
    exec (.paramWrite a d) s = .next { s with shadow := (writeShadow ref a d s.toEngine).shadow } :=
  exec_eq_next (i := .paramWrite a d) (writeShadow_frame a d)

/-- Settles O46: a publish is one update, and PARAM_WRITE after it moves SHADOW alone. -/
theorem snapPublishCopies : Obligations.SnapPublishCopies := by
  have hpublish : ∀ s : State, exec .snapPublish s = .next { s with pending := s.shadow, pendingValid := true } :=
    fun s => exec_eq_next rfl
  refine ⟨hpublish, fun s t u a d ht hu => ?_⟩
  rw [hpublish] at ht
  cases ht
  rw [exec_paramWrite_frame] at hu
  cases hu
  exact ⟨rfl, rfl, hpublish _⟩

/-! ## The FIFO (R302, R307) -/

theorem exec_cmdPush_room {s : State} (h : s.cmdq.length < 64) (r : Rec) :
    exec (.cmdPush r) s = .next { s with cmdq := s.cmdq ++ [r] } := exec_eq_next (pushRecord_room (P := ref) h r)

theorem exec_cmdPush_full {s : State} (h : 64 ≤ s.cmdq.length) (r : Rec) : exec (.cmdPush r) s = .next s :=
  exec_eq_next (pushRecord_full (P := ref) h r)

/-- Settles O47: a push appends or is dropped by the FIFO's length, and RECORD is cut out of the word. -/
theorem cmdPushAppendsOrDrops : Obligations.CmdPushAppendsOrDrops :=
  ⟨fun _ r h => exec_cmdPush_room h r, fun _ r h => exec_cmdPush_full h r, fun w h => by simp only [decodeWord, h]⟩

/-! ## PARAM_WRITE (R300) -/

/-- PARAM_WRITE to a register: the word SHADOW then holds, and its frame. -/
theorem exec_paramWrite_mapped (s : State) (r : Reg) (d : ParamWord) :
    exec (.paramWrite (BitVec.ofNat 10 (regAddr r)) d) s =
      .next { s with shadow := bankWrite ref.pool s.shadow r (legal ref.pool r (bankRead ref.pool s.shadow r) d) } :=
  exec_eq_next (writeShadow_mapped (regAt_paramAddr r) d)

/-- Settles O43: an unmapped address names no register; a write to a register is one bank write of LEGAL's word, and to write
again stores the word that is there. -/
theorem paramWriteEffect : Obligations.ParamWriteEffect := by
  refine ⟨fun s a d h => ?unmapped, fun s r d hwf => ?mapped, ?addresses⟩
  case unmapped => exact exec_eq_next (writeShadow_unmapped (regAt_none h) d)
  case mapped =>
    refine ⟨_, exec_paramWrite_mapped s r d, rfl, bankRead_bankWrite_same hwf r _,
      fun r' hr => bankRead_bankWrite_other hwf hr _, ?_⟩
    rw [exec_paramWrite_mapped, bankRead_bankWrite_same hwf, legal_again, bankWrite_again hwf]
  case addresses =>
    exact ⟨rfl, fun _ _ _ => rfl, fun _ _ => ⟨rfl, rfl, rfl⟩, rfl, rfl, rfl, rfl, rfl, rfl, rfl, rfl, rfl, rfl, rfl, rfl,
      rfl, rfl, rfl, rfl, rfl, rfl, fun _ => rfl⟩

end Sys2Proof.Machine
end

section
/-! SUPPORT. What LEGAL stores as a number: a capped code is a minimum, and a word is the sum of its fields (45_protocol.md
R306). -/

namespace Sys2Proof.Machine

/-! ## Stored codes -/

theorem capTo_toNat {n : Nat} (c k : BitVec n) : (capTo c k).toNat = min c.toNat k.toNat := by
  unfold capTo
  split <;> omega

theorem capUq15_toNat (c : Code) : (capUq15 c).toNat = min c.toNat 0x8000 := capTo_toNat c 0x8000#16

theorem clampCode_toNat {n : Nat} (c : BitVec n) {lo hi : BitVec n} (h : lo.toNat ≤ hi.toNat) :
    (clampCode c lo hi).toNat = min (max c.toNat lo.toNat) hi.toNat := by
  unfold clampCode
  split
  · omega
  · split <;> omega

theorem extractLsb'_zero_toNat (w : ParamWord) (n : Nat) : (w.extractLsb' 0 n).toNat = w.toNat % 2 ^ n :=
  BitVec.extractLsb'_toNat ..

theorem legalSustain_toNat (old d : BitVec 4) :
    (legalSustain old d).toNat = if d.toNat ≤ 7 ∨ d.toNat = 15 then d.toNat else old.toNat := by
  have hnone : d = 15#4 ↔ d.toNat = 15 := BitVec.toNat_inj.symm
  rw [legalSustain, apply_ite BitVec.toNat]
  simp only [hnone]

theorem legalEnd_toNat (old d : BitVec 4) : (legalEnd old d).toNat = if d.toNat ≤ 7 then d.toNat else old.toNat :=
  apply_ite BitVec.toNat ..

/-! ## Stored words -/

section words

variable (d : ParamWord)

/-- A field under reserved bits is stored as its own number. -/
theorem reserved_append_toNat {m n : Nat} (x : BitVec n) : (0#m ++ x).toNat = x.toNat := by
  rw [append_toNat, BitVec.toNat_ofNat, Nat.zero_mod, Nat.zero_mul, Nat.zero_add]

theorem legalUq15Word_toNat : (legalUq15Word d).toNat = min (d.toNat % 2 ^ 16) 0x8000 := by
  rw [legalUq15Word, reserved_append_toNat, capUq15_toNat, lo16_toNat]

theorem legalUq15Pair_toNat :
    (legalUq15Pair d).toNat = min (d.toNat / 2 ^ 16) 0x8000 * 2 ^ 16 + min (d.toNat % 2 ^ 16) 0x8000 := by
  rw [legalUq15Pair, append_toNat, capUq15_toNat, capUq15_toNat, lo16_toNat, hi16_toNat]

theorem legalOscCfg_toNat : (legalOscCfg d).toNat =
    min (d.toNat % 8) 6 + min (d.toNat / 8 % 8) 6 * 8 + d.toNat / 64 % 2 * 64 := by
  simp only [legalOscCfg, append_toNat, capTo_toNat, extractLsb'_toNat_div, BitVec.reduceToNat]
  omega

theorem legalDetune_toNat : (legalDetune d).toNat =
    d.toNat % 16 + min (d.toNat / 16 % 16) 11 * 16 + min (d.toNat / 256 % 64) 60 * 256 + d.toNat / 2 ^ 16 * 2 ^ 16 := by
  simp only [legalDetune, append_toNat, capTo_toNat, extractLsb'_toNat_div, hi16_toNat,
    BitVec.reduceToNat]
  omega

theorem legalArpCtl_toNat : (legalArpCtl d).toNat =
    d.toNat % 2 + min (d.toNat / 2 % 8) 4 * 2 + d.toNat / 16 % 32 * 16 := by
  simp only [legalArpCtl, append_toNat, capTo_toNat, extractLsb'_toNat_div, BitVec.reduceToNat]
  omega

theorem legalSysCfg_toNat {pool : Nat} (hpos : 1 ≤ pool) (hpool : pool ≤ 255) : (legalSysCfg pool d).toNat =
    min (max (d.toNat % 256) 1) pool + d.toNat / 256 % 16 * 256 := by
  have hbounds : (1#8).toNat ≤ (BitVec.ofNat 8 pool).toNat := by rw [poolByte_toNat hpool]; exact hpos
  simp only [legalSysCfg, append_toNat, clampCode_toNat _ hbounds, poolByte_toNat hpool,
    extractLsb'_toNat_div, BitVec.reduceToNat]
  omega

end words

/-- Settles O45: register by register, the sum of the stored fields. -/
theorem legalFields : Obligations.LegalFields := by
  intro pool old d hpos hpool
  refine ⟨fun t l k => legalUq15Pair_toNat d, fun t l => ?sustain, fun t l => ?endPoint, fun r hr => ?uq15,
    fun l => legalOscCfg_toNat d, ?mixCfg, fun l => legalDetune_toNat d, legalUq15Pair_toNat d, ?modMatrix, ?vibrato,
    ?pitchDepth, legalSysCfg_toNat d hpos hpool, legalArpCtl_toNat d, ?tempo, fun i => rfl,
    fun r h => legalWord_legal hpos hpool h d⟩
  case sustain => rw [legal, reserved_append_toNat, legalSustain_toNat, extractLsb'_zero_toNat, extractLsb'_zero_toNat]; rfl
  case endPoint => rw [legal, reserved_append_toNat, legalEnd_toNat, extractLsb'_zero_toNat, extractLsb'_zero_toNat]; rfl
  case uq15 => obtain ⟨t, l, rfl⟩ | ⟨l, rfl⟩ | rfl | rfl | rfl | rfl := hr <;> exact legalUq15Word_toNat d
  case mixCfg => rw [legal, reserved_append_toNat, extractLsb'_zero_toNat]; rfl
  case modMatrix => rw [legal, append_toNat, capUq15_toNat, lo16_toNat, hi16_toNat]
  case vibrato => rw [legal, reserved_append_toNat, lo16_toNat]
  case pitchDepth => rw [legal, reserved_append_toNat, lo16_toNat]
  case tempo => rw [legal, reserved_append_toNat, clampCode_toNat _ (by decide), lo16_toNat]; rfl

end Sys2Proof.Machine
end

section
/-! SUPPORT. Command records (45_protocol.md R304, R305, R310-R318; 30_encoding.md R115): each does nothing or stores one word in
one register of ACTIVE, so it commutes with a change of CMDQ, and to apply it twice is to apply it once. -/

namespace Sys2Proof.Machine

/-! ## LINE (R110, R115) -/

theorem lineOfCode_eq_some {line : BitVec 2} {l : Line} (h : line.toNat = lineIndex l + 1) : lineOfCode line = some l := by
  obtain rfl : line = BitVec.ofNat 2 (lineIndex l + 1) := by rw [← h, BitVec.ofNat_toNat, BitVec.setWidth_eq]
  cases l <;> rfl

theorem lineOfCode_eq_none {line : BitVec 2} (h : line.toNat = 0 ∨ line.toNat = 3) : lineOfCode line = none := by
  have hone : line ≠ 1#2 := by rintro rfl; revert h; decide
  have htwo : line ≠ 2#2 := by rintro rfl; revert h; decide
  rw [lineOfCode, if_neg hone, if_neg htwo]

/-! ## One record: what it stores, and when it is ignored (R305) -/

variable {N Post : Type} {P : Config.Params N Post}

section records

variable {t : EnvType} {line : BitVec 2} {index : BitVec 4} {l : Line} {s : Engine N Post}

theorem applyStage_valid (hl : lineOfCode line = some l) (hi : index.toNat ≤ 7) (rate level : Code) :
    applyStage P t line index rate level s =
      writeActive P s (.envStage t l (Fin.ofNat 8 index.toNat)) (capUq15 level ++ capUq15 rate) := by
  simp only [applyStage, hl, if_pos hi]

theorem applyStage_ignored (h : lineOfCode line = none ∨ 8 ≤ index.toNat) (rate level : Code) :
    applyStage P t line index rate level s = s := by
  unfold applyStage
  split
  · rfl
  · next hl => exact if_neg (by simp only [hl, reduceCtorEq, false_or] at h; omega)

theorem applySustain_valid (hl : lineOfCode line = some l) (hi : index.toNat ≤ 7 ∨ index.toNat = 15) :
    applySustain P t line index s = writeActive P s (.envSustain t l) (0#28 ++ index) := by
  have hindex : index.toNat ≤ 7 ∨ index = 15#4 := hi.imp_right fun h => BitVec.eq_of_toNat_eq h
  simp only [applySustain, hl, if_pos hindex]

theorem applySustain_ignored (h : lineOfCode line = none ∨ (8 ≤ index.toNat ∧ index.toNat ≤ 14)) :
    applySustain P t line index s = s := by
  unfold applySustain
  split
  · rfl
  · next hl =>
    refine if_neg ?_
    simp only [hl, reduceCtorEq, false_or] at h
    rintro (hle | rfl)
    · omega
    · exact absurd h.2 (by decide)

theorem applyEnd_valid (hl : lineOfCode line = some l) (hi : index.toNat ≤ 7) :
    applyEnd P t line index s = writeActive P s (.envEnd t l) (0#28 ++ index) := by
  simp only [applyEnd, hl, if_pos hi]

theorem applyEnd_ignored (h : lineOfCode line = none ∨ 8 ≤ index.toNat) : applyEnd P t line index s = s := by
  unfold applyEnd
  split
  · rfl
  · next hl => exact if_neg (by simp only [hl, reduceCtorEq, false_or] at h; omega)

end records

/-! ## The TYPE of a record (R111) -/

section types

variable {r : Rec} {s : Engine N Post}

theorem applyRecord_stage {e : EnvType} (h : (Rec.type r).toNat = tcode e) :
    applyRecord P r s = applyStage P e (Rec.line r) (Rec.index r) (Rec.rate r) (Rec.level r) s := by
  cases e <;> simp only [applyRecord, h, tcode] <;> rfl

theorem applyRecord_sustain {e : EnvType} (h : (Rec.type r).toNat = 3 + tcode e) :
    applyRecord P r s = applySustain P e (Rec.line r) (Rec.index r) s := by
  cases e <;> simp only [applyRecord, h, tcode] <;> rfl

theorem applyRecord_end {e : EnvType} (h : (Rec.type r).toNat = 6 + tcode e) :
    applyRecord P r s = applyEnd P e (Rec.line r) (Rec.index r) s := by
  cases e <;> simp only [applyRecord, h, tcode] <;> rfl

end types

theorem exists_tcode {n : Nat} (h : n < 3) : ∃ e, n = tcode e := by
  interval_cases n
  exacts [⟨.dcw, rfl⟩, ⟨.dca, rfl⟩, ⟨.pitch, rfl⟩]

/-- TYPE names a stage, a sustain or an end of one envelope type, or it is reserved (R111). -/
theorem recordType_cases (r : Rec) : (∃ e, (Rec.type r).toNat = tcode e) ∨ (∃ e, (Rec.type r).toNat = 3 + tcode e) ∨
    (∃ e, (Rec.type r).toNat = 6 + tcode e) ∨ 9 ≤ (Rec.type r).toNat := by
  rcases lt_or_ge (Rec.type r).toNat 3 with h3 | h3
  · exact .inl (exists_tcode h3)
  rcases lt_or_ge (Rec.type r).toNat 6 with h6 | h6
  · obtain ⟨e, he⟩ := exists_tcode (n := (Rec.type r).toNat - 3) (by omega)
    exact .inr (.inl ⟨e, by omega⟩)
  rcases lt_or_ge (Rec.type r).toNat 9 with h9 | h9
  · obtain ⟨e, he⟩ := exists_tcode (n := (Rec.type r).toNat - 6) (by omega)
    exact .inr (.inr (.inl ⟨e, by omega⟩))
  · exact .inr (.inr (.inr h9))

/-- The effect of the instruction that a record decodes to is APPLY of the record. -/
theorem engineExec_decodeRecord (r : Rec) (s : Engine N Post) : engineExec P (decodeRecord r) s = applyRecord P r s := by
  unfold decodeRecord applyRecord
  have hlt : (Rec.type r).toNat < 16 := (Rec.type r).isLt
  generalize (Rec.type r).toNat = type at hlt ⊢
  interval_cases type <;> rfl

theorem applyRecord_reserved {r : Rec} {s : Engine N Post} (h : 9 ≤ (Rec.type r).toNat) : applyRecord P r s = s := by
  have hmem := decodeRecord_reserved h
  rw [← engineExec_decodeRecord]
  generalize decodeRecord r = i at hmem ⊢
  fin_cases hmem <;> rfl

/-- R305: APPLY is the effect of the decoded instruction. -/
theorem exec_decodeRecord (r : Rec) (s : State) : exec (decodeRecord r) s = .next (s.onEngine (applyRecord ref r)) := by
  rw [exec_eq_next (engineExec_decodeRecord r s.toEngine), State.onEngine]

/-! ## A record does nothing or stores one fixed word in one fixed register -/

/-- `f` leaves every state as it is, or stores the same word in the same register of ACTIVE in every state. -/
def StoresOneWord (P : Config.Params N Post) (f : Engine N Post → Engine N Post) : Prop :=
  (∀ s, f s = s) ∨ ∃ r w, ∀ s, f s = writeActive P s r w

theorem applyStage_storesOneWord (t : EnvType) (line : BitVec 2) (index : BitVec 4) (rate level : Code) :
    StoresOneWord P (applyStage P t line index rate level) := by
  cases hl : lineOfCode line with
  | none => exact .inl fun _ => applyStage_ignored (.inl hl) rate level
  | some l =>
    rcases Nat.lt_or_ge index.toNat 8 with hi | hi
    · exact .inr ⟨_, _, fun _ => applyStage_valid hl (Nat.le_of_lt_succ hi) rate level⟩
    · exact .inl fun _ => applyStage_ignored (.inr hi) rate level

theorem applySustain_storesOneWord (t : EnvType) (line : BitVec 2) (index : BitVec 4) :
    StoresOneWord P (applySustain P t line index) := by
  cases hl : lineOfCode line with
  | none => exact .inl fun _ => applySustain_ignored (.inl hl)
  | some l =>
    by_cases hi : index.toNat ≤ 7 ∨ index.toNat = 15
    · exact .inr ⟨_, _, fun _ => applySustain_valid hl hi⟩
    · exact .inl fun _ => applySustain_ignored (.inr (by omega))

theorem applyEnd_storesOneWord (t : EnvType) (line : BitVec 2) (index : BitVec 4) :
    StoresOneWord P (applyEnd P t line index) := by
  cases hl : lineOfCode line with
  | none => exact .inl fun _ => applyEnd_ignored (.inl hl)
  | some l =>
    rcases Nat.lt_or_ge index.toNat 8 with hi | hi
    · exact .inr ⟨_, _, fun _ => applyEnd_valid hl (Nat.le_of_lt_succ hi)⟩
    · exact .inl fun _ => applyEnd_ignored (.inr hi)

theorem applyRecord_storesOneWord (r : Rec) : StoresOneWord P (applyRecord P r) := by
  obtain ⟨e, he⟩ | ⟨e, he⟩ | ⟨e, he⟩ | h := recordType_cases r
  · rw [show applyRecord P r = _ from funext fun _ => applyRecord_stage he]
    exact applyStage_storesOneWord ..
  · rw [show applyRecord P r = _ from funext fun _ => applyRecord_sustain he]
    exact applySustain_storesOneWord ..
  · rw [show applyRecord P r = _ from funext fun _ => applyRecord_end he]
    exact applyEnd_storesOneWord ..
  · exact .inl fun _ => applyRecord_reserved h

section store

variable {f : Engine N Post → Engine N Post} (hf : StoresOneWord P f)

include hf

/-- The second store finds its word there (R78). -/
theorem StoresOneWord.again {s : Engine N Post} (hwf : Bank.wf P.pool s.active = true) : f (f s) = f s := by
  obtain hid | ⟨r, w, hstore⟩ := hf
  · rw [hid, hid]
  · rw [hstore, hstore, writeActive, writeActive, bankWrite_again hwf]

/-- A store does not read CMDQ. -/
theorem StoresOneWord.cmdq (s : Engine N Post) (q : List Rec) : f { s with cmdq := q } = { f s with cmdq := q } := by
  obtain hid | ⟨r, w, hstore⟩ := hf
  · rw [hid, hid]
  · rw [hstore, hstore]
    rfl

end store

/-! ## DRAIN (R304, R307) -/

/-- Records are applied alike whatever CMDQ holds. -/
theorem applyRecords_cmdq (rs : List Rec) (s : Engine N Post) (q : List Rec) :
    rs.foldl (fun s r => applyRecord P r s) { s with cmdq := q } =
      { rs.foldl (fun s r => applyRecord P r s) s with cmdq := q } := by
  induction rs generalizing s with
  | nil => rfl
  | cons r rs ih =>
    rw [List.foldl_cons, List.foldl_cons, (applyRecord_storesOneWord r).cmdq s q]
    exact ih (applyRecord P r s)

/-- A drain applies the oldest record and drains the rest. -/
theorem drain_cons {s : Engine N Post} {r : Rec} {rest : List Rec} (h : s.cmdq = r :: rest) :
    drain P s = drain P (applyRecord P r { s with cmdq := rest }) := by
  have hstore := (applyRecord_storesOneWord (P := P) r).cmdq s
  have hrest : (applyRecord P r { s with cmdq := rest }).cmdq = rest := by rw [applyRecord_frame]
  calc drain P s
      = rest.foldl (fun s r => applyRecord P r s) (applyRecord P r { s with cmdq := [] }) := by
        rw [drain, h, List.foldl_cons]
    _ = rest.foldl (fun s r => applyRecord P r s) { applyRecord P r { s with cmdq := rest } with cmdq := [] } := by
        rw [hstore rest, hstore []]
    _ = drain P (applyRecord P r { s with cmdq := rest }) := by rw [drain, hrest]

theorem drain_nil {s : Engine N Post} (h : s.cmdq = []) : drain P s = s := by
  calc drain P s = { s with cmdq := [] } := by rw [drain, h, List.foldl_nil]
    _ = s := by rw [← h]

/-- Pushes keep records while there is room, and drop the others (R302, R307): with CMDQ empty, the first 64 stay. -/
theorem foldl_cmdPush {push : Host.Outcome State Fault Refusal → Rec → Host.Outcome State Fault Refusal}
    (hpush : ∀ t r, push (.next t) r = exec (.cmdPush r) t) (records : List Rec) (s : State) :
    records.foldl push (.next s) = .next { s with cmdq := s.cmdq ++ records.take (64 - s.cmdq.length) } := by
  induction records generalizing s with
  | nil => simp
  | cons r rs ih =>
    rw [List.foldl_cons, hpush]
    rcases Nat.lt_or_ge s.cmdq.length 64 with hroom | hfull
    · have hslots : 64 - s.cmdq.length = (64 - (s.cmdq ++ [r]).length) + 1 := by
        rw [List.length_append, List.length_singleton]
        omega
      rw [exec_cmdPush_room hroom, ih, hslots, List.take_succ_cons]
      simp
    · have hnone : 64 - s.cmdq.length = 0 := by omega
      rw [exec_cmdPush_full hfull, ih, hnone, List.take_zero, List.take_zero]

/-- Settles O49: a drain is a fold over CMDQ, and no record reads CMDQ. -/
theorem drainAppliesInOrder : Obligations.DrainAppliesInOrder := by
  refine ⟨drain_frame ref, fun s h => drain_nil h, fun s r rest h => ?oldest, fun s records h => ?pushes,
    fun s records => ?active⟩
  case oldest =>
    refine ⟨_, exec_decodeRecord r _, ?_, drain_cons h⟩
    rw [onEngine_toEngine, applyRecord_frame]
  case pushes =>
    rw [foldl_cmdPush (fun _ _ => rfl) records s, h]
    rfl
  case active =>
    show (records.foldl (fun s r => applyRecord ref r s) { s with cmdq := [] }).active = _
    rw [applyRecords_cmdq]

end Sys2Proof.Machine
end

section
/-! SUPPORT. What the stage, sustain and end records store, as numbers and as fields (45_protocol.md R305, R310-R318). -/

namespace Sys2Proof.Machine

/-! ## Stored points -/

/-- A bank whose word is a 4-bit code reads the sustain point of that code. -/
theorem sustainPoint_of_code {b : Bank} {t : EnvType} {l : Line} {index : BitVec 4}
    (h : (bankRead ref.pool b (.envSustain t l)).toNat = index.toNat) (hi : index.toNat ≤ 7 ∨ index.toNat = 15) :
    sustainPoint ref b t l = if hk : index.toNat < 8 then some ⟨index.toNat, hk⟩ else none := by
  have hfield : (bankRead ref.pool b (.envSustain t l)).toNat % 16 = index.toNat := by omega
  split
  · exact sustainPoint_some ref b hfield
  · exact sustainPoint_none ref b (hfield.trans (by omega))

theorem endPoint_of_code {b : Bank} {t : EnvType} {l : Line} {index : BitVec 4}
    (h : (bankRead ref.pool b (.envEnd t l)).toNat = index.toNat) (hi : index.toNat ≤ 7) :
    (endPoint ref b t l).val = index.toNat := by
  have hfield : (bankRead ref.pool b (.envEnd t l)).toNat % 16 = (⟨index.toNat, by omega⟩ : Fin 8).val := by
    show _ = index.toNat
    omega
  rw [endPoint_eq ref b hfield]

/-! ## One record as an instruction -/

section records

variable {i : Instr} {t : EnvType} {line : BitVec 2} {index : BitVec 4} {s : State}

/-- A stage record stores its clamped LEVEL and RATE in its stage. -/
theorem exec_stage_valid {rate level : Code} (h : engineExec ref i = applyStage ref t line index rate level)
    (hwf : Bank.wf ref.pool s.active = true) {l : Line} {k : Fin 8} (hl : line.toNat = lineIndex l + 1)
    (hk : index.toNat = k.val) :
    ∃ u, exec i s = .next u ∧ u = { s with active := u.active } ∧
      regAddr (.envStage t l k) = 0x20 * (2 * tcode t + lineIndex l) + k.val ∧
      (bankRead ref.pool u.active (.envStage t l k)).toNat = min level.toNat 0x8000 * 2 ^ 16 + min rate.toNat 0x8000 ∧
      (∀ r ≠ .envStage t l k, bankRead ref.pool u.active r = bankRead ref.pool s.active r) ∧
      Bank.wf ref.pool u.active = true := by
  have hstage : Fin.ofNat 8 index.toNat = k := by rw [hk]; exact Fin.ofNat_val_eq_self k
  have hstore := applyStage_valid (P := ref) (t := t) (s := s.toEngine) (lineOfCode_eq_some hl)
    (show index.toNat ≤ 7 by omega) rate level
  rw [hstage] at hstore
  refine ⟨_, exec_eq_next ((congrFun h _).trans hstore), rfl, rfl, ?_, fun r hr => bankRead_bankWrite_other hwf hr _,
    bankWrite_wf hwf _ _⟩
  rw [writeActive, bankRead_bankWrite_same hwf, append_toNat, capUq15_toNat, capUq15_toNat]

theorem exec_stage_ignored {rate level : Code} (h : engineExec ref i = applyStage ref t line index rate level)
    (hbad : line.toNat = 0 ∨ line.toNat = 3 ∨ 8 ≤ index.toNat) : exec i s = .next s := by
  have hignored : lineOfCode line = none ∨ 8 ≤ index.toNat := (or_assoc.2 hbad).imp_left lineOfCode_eq_none
  exact exec_eq_next ((congrFun h _).trans (applyStage_ignored hignored rate level))

/-- A sustain record stores INDEX as its sustain point. -/
theorem exec_sustain_valid (h : engineExec ref i = applySustain ref t line index)
    (hwf : Bank.wf ref.pool s.active = true) {l : Line} (hl : line.toNat = lineIndex l + 1)
    (hi : index.toNat ≤ 7 ∨ index.toNat = 15) :
    ∃ u, exec i s = .next u ∧ u = { s with active := u.active } ∧
      regAddr (.envSustain t l) = 0x20 * (2 * tcode t + lineIndex l) + 8 ∧
      (bankRead ref.pool u.active (.envSustain t l)).toNat = index.toNat ∧
      sustainPoint ref u.active t l = (if hk : index.toNat < 8 then some ⟨index.toNat, hk⟩ else none) ∧
      (∀ r ≠ .envSustain t l, bankRead ref.pool u.active r = bankRead ref.pool s.active r) ∧
      Bank.wf ref.pool u.active = true := by
  have hread : (bankRead ref.pool (bankWrite ref.pool s.active (.envSustain t l) (0#28 ++ index)) (.envSustain t l)).toNat =
      index.toNat := by rw [bankRead_bankWrite_same hwf, reserved_append_toNat]
  exact ⟨_, exec_eq_next ((congrFun h _).trans (applySustain_valid (lineOfCode_eq_some hl) hi)), rfl, rfl, hread,
    sustainPoint_of_code hread hi, fun r hr => bankRead_bankWrite_other hwf hr _, bankWrite_wf hwf _ _⟩

theorem exec_sustain_ignored (h : engineExec ref i = applySustain ref t line index)
    (hbad : line.toNat = 0 ∨ line.toNat = 3 ∨ (8 ≤ index.toNat ∧ index.toNat ≤ 14)) : exec i s = .next s :=
  exec_eq_next ((congrFun h _).trans (applySustain_ignored ((or_assoc.2 hbad).imp_left lineOfCode_eq_none)))

/-- An end record stores INDEX as its end point. -/
theorem exec_end_valid (h : engineExec ref i = applyEnd ref t line index) (hwf : Bank.wf ref.pool s.active = true)
    {l : Line} (hl : line.toNat = lineIndex l + 1) (hi : index.toNat ≤ 7) :
    ∃ u, exec i s = .next u ∧ u = { s with active := u.active } ∧
      regAddr (.envEnd t l) = 0x20 * (2 * tcode t + lineIndex l) + 9 ∧
      (bankRead ref.pool u.active (.envEnd t l)).toNat = index.toNat ∧
      (endPoint ref u.active t l).val = index.toNat ∧
      (∀ r ≠ .envEnd t l, bankRead ref.pool u.active r = bankRead ref.pool s.active r) ∧
      Bank.wf ref.pool u.active = true := by
  have hread : (bankRead ref.pool (bankWrite ref.pool s.active (.envEnd t l) (0#28 ++ index)) (.envEnd t l)).toNat =
      index.toNat := by rw [bankRead_bankWrite_same hwf, reserved_append_toNat]
  exact ⟨_, exec_eq_next ((congrFun h _).trans (applyEnd_valid (lineOfCode_eq_some hl) hi)), rfl, rfl, hread,
    endPoint_of_code hread hi, fun r hr => bankRead_bankWrite_other hwf hr _, bankWrite_wf hwf _ _⟩

theorem exec_end_ignored (h : engineExec ref i = applyEnd ref t line index)
    (hbad : line.toNat = 0 ∨ line.toNat = 3 ∨ 8 ≤ index.toNat) : exec i s = .next s :=
  exec_eq_next ((congrFun h _).trans (applyEnd_ignored ((or_assoc.2 hbad).imp_left lineOfCode_eq_none)))

end records

/-- Settles O50: each of the three stage records has the effect `applyStage` of its envelope type. -/
theorem stageRecordsWriteOneStage : Obligations.StageRecordsWriteOneStage := by
  intro s line index rate level hwf p hp
  have heffect : engineExec ref p.1 = applyStage ref p.2 line index rate level := by fin_cases hp <;> rfl
  exact ⟨fun l k hl hk => exec_stage_valid heffect hwf hl hk, exec_stage_ignored heffect⟩

/-- Settles O51: each of the six point records has the effect `applySustain` or `applyEnd` of its envelope type. -/
theorem pointRecordsWriteOnePoint : Obligations.PointRecordsWriteOnePoint := by
  intro s line index hwf
  refine ⟨fun p hp => ?sustain, fun p hp => ?endPoint⟩
  case sustain =>
    have heffect : engineExec ref p.1 = applySustain ref p.2 line index := by fin_cases hp <;> rfl
    exact ⟨fun l hl hi => exec_sustain_valid heffect hwf hl hi, exec_sustain_ignored heffect⟩
  case endPoint =>
    have heffect : engineExec ref p.1 = applyEnd ref p.2 line index := by fin_cases hp <;> rfl
    exact ⟨fun l hl hi => exec_end_valid heffect hwf hl hi, exec_end_ignored heffect⟩

/-! ## APPLY (R305) -/

/-- A record without a line is ignored, whatever its TYPE (R115). -/
theorem applyRecord_noLine {r : Rec} (h : lineOfCode (Rec.line r) = none) (s : RefEngine) : applyRecord ref r s = s := by
  obtain ⟨e, he⟩ | ⟨e, he⟩ | ⟨e, he⟩ | hreserved := recordType_cases r
  · rw [applyRecord_stage he, applyStage_ignored (.inl h)]
  · rw [applyRecord_sustain he, applySustain_ignored (.inl h)]
  · rw [applyRecord_end he, applyEnd_ignored (.inl h)]
  · exact applyRecord_reserved hreserved

/-- Settles O52: a record stores one fixed word in one register of ACTIVE or is ignored, and TYPE, LINE and INDEX say which. -/
theorem applyIsExecAndIdempotent : Obligations.ApplyIsExecAndIdempotent := by
  refine ⟨exec_decodeRecord, fun r s t hwf ht => ?_, by decide⟩
  subst ht
  refine ⟨(applyRecord_storesOneWord r).again hwf, applyRecord_frame ref r s, fun e l hl => ⟨?stage, ?sustain, ?endPoint⟩,
    fun hl => applyRecord_noLine hl s, ?badStage, ?badSustain, ?badEnd, applyRecord_reserved⟩
  case stage =>
    intro he hi g hg
    rw [applyRecord_stage he, applyStage_valid hl hi]
    exact bankRead_bankWrite_other hwf hg _
  case sustain =>
    intro he hi g hg
    rw [applyRecord_sustain he, applySustain_valid hl hi]
    exact bankRead_bankWrite_other hwf hg _
  case endPoint =>
    intro he hi g hg
    rw [applyRecord_end he, applyEnd_valid hl hi]
    exact bankRead_bankWrite_other hwf hg _
  case badStage =>
    intro htype hi
    obtain ⟨e, he⟩ := exists_tcode (n := (Rec.type r).toNat) (by omega)
    rw [applyRecord_stage he, applyStage_ignored (.inr hi)]
  case badSustain =>
    intro hlo hhi h8 h14
    obtain ⟨e, he⟩ := exists_tcode (n := (Rec.type r).toNat - 3) (by omega)
    rw [applyRecord_sustain (e := e) (by omega), applySustain_ignored (.inr ⟨h8, h14⟩)]
  case badEnd =>
    intro hlo hhi h8
    obtain ⟨e, he⟩ := exists_tcode (n := (Rec.type r).toNat - 6) (by omega)
    rw [applyRecord_end (e := e) (by omega), applyEnd_ignored (.inr h8)]

end Sys2Proof.Machine
end

section
/-! SUPPORT. INSTALL (45_protocol.md R303; 46_arpeggiator.md R359): the three cases, and ARP_DISABLE under the new bank. -/

namespace Sys2Proof.Machine

variable {N Post : Type} {P : Config.Params N Post} {s : Engine N Post}

theorem install_nothingPending (h : s.pendingValid = false) : install P s = s := if_neg (by simp [h])

theorem install_arpKept (hvalid : s.pendingValid = true) (harp : arpOn P s.active = false ∨ arpOn P s.pending = true) :
    install P s = { s with active := s.pending, pendingValid := false } := by
  have hkept : ¬(arpOn P s.active && !arpOn P s.pending) = true := by
    rcases harp with h | h <;> simp [h]
  rw [install, if_pos hvalid]
  exact if_neg hkept

theorem install_arpFalls (hvalid : s.pendingValid = true) (hold : arpOn P s.active = true)
    (hnew : arpOn P s.pending = false) :
    install P s = arpDisable P { s with active := s.pending, pendingValid := false } := by
  have hfalls : (arpOn P s.active && !arpOn P s.pending) = true := by simp [hold, hnew]
  rw [install, if_pos hvalid]
  exact if_pos hfalls

theorem arpGateClose_open (h : s.arpGateOpen = true) :
    arpGateClose P s = { allocNoteOff P s s.arpNote with arpGateOpen := false } := if_pos h

theorem arpGateClose_closed (h : s.arpGateOpen = false) : arpGateClose P s = s := if_neg (by simp [h])

/-- The pool after ARP_GATE_CLOSE. -/
theorem arpGateClose_voices :
    (arpGateClose P s).voices = if s.arpGateOpen = true then (allocNoteOff P s s.arpNote).voices else s.voices := by
  split
  · next h => rw [arpGateClose_open h]
  · next h => rw [arpGateClose_closed (Bool.eq_false_of_not_eq_true h)]

/-- The events after ARP_GATE_CLOSE. -/
theorem arpGateClose_events :
    (arpGateClose P s).events = if s.arpGateOpen = true then s.events ++ [.noteOff s.arpNote] else s.events := by
  split
  · next h => rw [arpGateClose_open h, allocNoteOff_frame]
  · next h => rw [arpGateClose_closed (Bool.eq_false_of_not_eq_true h)]

/-- `Alloc.noteOff` does not read PENDING_VALID. -/
theorem allocNoteOff_pendingValid (s : Engine N Post) (valid : Bool) (n : Note) :
    allocNoteOff P { s with pendingValid := valid } n = { allocNoteOff P s n with pendingValid := valid } := by
  have hframe := allocNoteOff_frame P s n
  calc allocNoteOff P { s with pendingValid := valid } n
      = withHost { hostSide s with pendingValid := valid } (allocNoteOff P s n) :=
        allocNoteOff_blind n { hostSide s with pendingValid := valid } s
    _ = { allocNoteOff P s n with pendingValid := valid } := by rw [hframe]; rfl

/-- Settles O48: INSTALL by its two questions, and ARP_DISABLE by its frame. -/
theorem installCopiesPending : Obligations.InstallCopiesPending := by
  intro N Post P s
  refine ⟨install_nothingPending, install_arpKept, fun hvalid hold hnew => ?_⟩
  have hpool := allocNoteOff_pendingValid (P := P) { s with active := s.pending } false s.arpNote
  rw [install_arpFalls hvalid hold hnew, arpDisable_frame, arpGateClose_voices, arpGateClose_events, hpool]

end Sys2Proof.Machine
end

section
/-! SUPPORT. The arpeggiator's note buffer: its base list, its octaves and its order (46_arpeggiator.md R348). -/

namespace Sys2Proof.Machine

variable {N Post : Type} (P : Config.Params N Post) (b : Bank) (held : List Note)

/-! ## The base list -/

theorem sortedHeld_perm : (sortedHeld held).Perm held := List.perm_insertionSort _ held

theorem sortedHeld_pairwise : (sortedHeld held).Pairwise fun x y => x.toNat ≤ y.toNat :=
  haveI : Std.Total fun x y : Note => x.toNat ≤ y.toNat := ⟨fun x y => Nat.le_total x.toNat y.toNat⟩
  haveI : IsTrans Note fun x y => x.toNat ≤ y.toNat := ⟨fun _ _ _ => Nat.le_trans⟩
  List.pairwise_insertionSort _ held

/-- The list that the octaves repeat: HELD in press order for AsPlayed, in ascending order for every other pattern. -/
def bufferBase : List Note := if arpPattern P b = .asPlayed then held else sortedHeld held

theorem bufferBase_asPlayed (h : arpPattern P b = .asPlayed) : bufferBase P b held = held := if_pos h

theorem bufferBase_sorted (h : arpPattern P b ≠ .asPlayed) : bufferBase P b held = sortedHeld held := if_neg h

theorem bufferBase_perm : (bufferBase P b held).Perm held := by
  by_cases h : arpPattern P b = .asPlayed
  · rw [bufferBase_asPlayed P b held h]
  · rw [bufferBase_sorted P b held h]
    exact sortedHeld_perm held

/-! ## The octaves -/

/-- An octave as numbers: no note wraps, since those above 127 are gone. -/
theorem octaveNotes_toNat (base : List Note) (o : Nat) : (octaveNotes base o).map BitVec.toNat =
    (base.map fun x : Note => x.toNat + 12 * o).filter fun x => decide (x ≤ 127) := by
  rw [octaveNotes, List.filter_map, List.map_map]
  refine List.map_congr_left fun x hx => ?_
  have hkept : x.toNat + 12 * o ≤ 127 := of_decide_eq_true (List.mem_filter.1 hx).2
  exact (BitVec.toNat_ofNat ..).trans (Nat.mod_eq_of_lt (by omega))

/-- Octave 0 keeps every note. -/
theorem octaveNotes_zero (base : List Note) : octaveNotes base 0 = base := by
  refine List.map_injective_iff.2 (fun _ _ => BitVec.eq_of_toNat_eq) ?_
  rw [octaveNotes_toNat, List.filter_eq_self.2]
  · rfl
  · intro x hx
    obtain ⟨n, -, rfl⟩ := List.mem_map.1 hx
    exact decide_eq_true (by have := n.isLt; omega)

/-- The buffer before the reversal of Down. -/
def octaveRun : List Note := (List.range (octRange P b)).flatMap (octaveNotes (bufferBase P b held))

theorem noteBuffer_ascending (h : arpPattern P b ≠ .down) : noteBuffer P b held = octaveRun P b held := if_neg h

theorem noteBuffer_down (h : arpPattern P b = .down) : noteBuffer P b held = (octaveRun P b held).reverse := if_pos h

theorem octaveRun_toNat : (octaveRun P b held).map BitVec.toNat = (List.range (octRange P b)).flatMap fun o =>
    ((bufferBase P b held).map fun x : Note => x.toNat + 12 * o).filter fun x => decide (x ≤ 127) := by
  simp only [octaveRun, List.map_flatMap, octaveNotes_toNat]

theorem mem_noteBuffer_iff (n : Note) : n ∈ noteBuffer P b held ↔ n ∈ octaveRun P b held := by
  by_cases h : arpPattern P b = .down
  · rw [noteBuffer_down P b held h, List.mem_reverse]
  · rw [noteBuffer_ascending P b held h]

/-- Every held note is in the buffer, by octave 0. -/
theorem mem_noteBuffer_of_held {n : Note} (hn : n ∈ held) : n ∈ noteBuffer P b held := by
  have hbase : n ∈ octaveNotes (bufferBase P b held) 0 := by
    rw [octaveNotes_zero]
    exact (bufferBase_perm P b held).mem_iff.2 hn
  exact (mem_noteBuffer_iff P b held n).2 (List.mem_flatMap.2 ⟨0, List.mem_range.2 (Nat.succ_pos _), hbase⟩)

theorem noteBuffer_ne_nil (h : held ≠ []) : noteBuffer P b held ≠ [] := by
  obtain ⟨n, hn⟩ := List.exists_mem_of_ne_nil held h
  exact List.ne_nil_of_mem (mem_noteBuffer_of_held P b held hn)

/-- Settles O42: the base list is `bufferBase`, and the buffer is its octaves, for Down reversed. -/
theorem noteBufferContents : Obligations.NoteBufferContents := by
  refine ⟨fun N Post P b held => ⟨bufferBase P b held, bufferBase_perm P b held, bufferBase_asPlayed P b held, ?sorted, ?up,
    ?down, noteBuffer_ne_nil P b held⟩, fun N Post P b hup htwo => ?twoOctaves, fun N Post P b hplayed hone => ?played⟩
  case sorted =>
    intro h
    rw [bufferBase_sorted P b held h]
    exact sortedHeld_pairwise held
  case up =>
    intro h
    rw [noteBuffer_ascending P b held h, octaveRun_toNat]
  case down =>
    intro h
    rw [noteBuffer_down P b held h, List.map_reverse, octaveRun_toNat]
  case twoOctaves =>
    have hrun (held : List Note) : noteBuffer P b held = (List.range 2).flatMap (octaveNotes (sortedHeld held)) := by
      rw [noteBuffer_ascending P b held (by simp [hup]), octaveRun, htwo, bufferBase_sorted P b held (by simp [hup])]
    rw [hrun, hrun]
    decide
  case played =>
    rw [noteBuffer_ascending P b _ (by simp [hplayed]), octaveRun, hone, bufferBase_asPlayed P b _ hplayed]
    decide

end Sys2Proof.Machine
end

section
/-! SUPPORT. SELECT: the index it answers and what it stores, by pattern (46_arpeggiator.md R349-R352). -/

namespace Sys2Proof.Machine

variable {N Post : Type} (P : Config.Params N Post)

/-! ## The ping-pong (R351) -/

section pingPong

variable {idx len : Nat}

theorem selectUpDown_index (dir : Dir) (hlen : 1 ≤ len) : (selectUpDown idx dir len).1 = min idx (len - 1) := by
  have hindex : (selectUpDown idx dir len).1 = (min (idx : Int) ((len : Int) - 1)).toNat := rfl
  omega

/-- A step that stays inside the buffer keeps its direction. -/
theorem selectUpDown_inside {dir : Dir} {i j : Nat} (hi : (i : Int) = min (idx : Int) ((len : Int) - 1))
    (hj : (j : Int) = i + dirStep dir) (hlen : j < len) : selectUpDown idx dir len = (i, j, dir) := by
  have hover : ¬(len : Int) - 1 < j := by omega
  have hunder : ¬(j : Int) < 0 := by omega
  simp only [selectUpDown, ← hi, ← hj, if_neg hover, if_neg hunder, Int.toNat_natCast]

theorem selectUpDown_rise (h : min idx (len - 1) + 1 < len) :
    selectUpDown idx .plus len = (min idx (len - 1), min idx (len - 1) + 1, .plus) :=
  selectUpDown_inside (by omega) rfl h

theorem selectUpDown_fall (h : 0 < min idx (len - 1)) :
    selectUpDown idx .minus len = (min idx (len - 1), min idx (len - 1) - 1, .minus) :=
  selectUpDown_inside (by omega) (by rw [dirStep]; omega) (by omega)

theorem selectUpDown_top (hlen : 2 ≤ len) (h : min idx (len - 1) + 1 = len) :
    selectUpDown idx .plus len = (min idx (len - 1), len - 2, .minus) := by
  have hi : min (idx : Int) ((len : Int) - 1) = (len - 1 : Nat) := by omega
  have hover : (len : Int) - 1 < (len - 1 : Nat) + 1 := by omega
  have hback : ((len - 1 : Nat) : Int) - 1 = (len - 2 : Nat) := by omega
  have hunder : ¬((len - 2 : Nat) : Int) < 0 := by omega
  have hmin : min idx (len - 1) = len - 1 := by omega
  simp only [selectUpDown, hi, dirStep, hmin, if_pos hover, hback, if_neg hunder, Int.toNat_natCast]

theorem selectUpDown_bottom (hlen : 1 ≤ len) : selectUpDown 0 .minus len = (0, 1, .plus) := by
  have hi : min ((0 : Nat) : Int) ((len : Int) - 1) = 0 := by omega
  have hover : ¬(len : Int) - 1 < 0 + -1 := by omega
  simp only [selectUpDown, hi, dirStep, if_neg hover]
  rfl

/-- One note: the index is clamped to 0, and either direction ends at +1. -/
theorem selectUpDown_one (idx : Nat) (dir : Dir) : selectUpDown idx dir 1 = (0, 1, .plus) := by
  have hi : min (idx : Int) ((1 : Nat) - 1 : Int) = 0 := by omega
  simp only [selectUpDown, hi]
  cases dir <;> rfl

/-- The first fire of a sequence plays the first note and goes on to the second. -/
theorem selectUpDown_start (hlen : 1 ≤ len) : selectUpDown 0 .plus len = (0, 1, .plus) := by
  by_cases hone : len = 1
  · rw [hone, selectUpDown_one]
  · have hrise : min 0 (len - 1) + 1 < len := by omega
    rw [selectUpDown_rise hrise, Nat.zero_min]

end pingPong

/-! ## The draw (R352) -/

theorem drawIndex_lt (draws : Nat) {len : Nat} (hlen : 1 ≤ len) : drawIndex P draws len < len := by
  unfold drawIndex
  split
  · exact hlen
  · exact Nat.mod_lt _ hlen

/-- A draw below the length is the index. -/
theorem drawIndex_of_lt {draws len : Nat} (h : P.drawIdx draws < len) : drawIndex P draws len = P.drawIdx draws := by
  unfold drawIndex
  split
  · omega
  · exact Nat.mod_eq_of_lt h

/-! ## SELECT by the pattern (R349) -/

section byPattern

variable {s : Engine N Post} {len : Nat}

/-- Up, Down and AsPlayed select alike. -/
abbrev IsCyclic (p : Pattern) : Prop := p = .up ∨ p = .down ∨ p = .asPlayed

theorem selectStep_cyclic (h : IsCyclic (arpPattern P s.active)) :
    selectStep P s len = ((selectCyclic s.arpIdx len).1, { s with arpIdx := (selectCyclic s.arpIdx len).2 }) := by
  rcases h with h | h | h <;> simp only [selectStep, h]

theorem selectStep_upDown (h : arpPattern P s.active = .upDown) :
    selectStep P s len = ((selectUpDown s.arpIdx s.arpDir len).1,
      { s with
        arpIdx := (selectUpDown s.arpIdx s.arpDir len).2.1
        arpDir := (selectUpDown s.arpIdx s.arpDir len).2.2 }) := by
  simp only [selectStep, h]

theorem selectStep_random (h : arpPattern P s.active = .random) :
    selectStep P s len = (drawIndex P s.draws len, { s with draws := s.draws + 1 }) := by
  simp only [selectStep, h]

theorem pattern_cases (p : Pattern) : IsCyclic p ∨ p = .upDown ∨ p = .random := by
  cases p <;> decide

theorem selectCyclic_lt (idx : Nat) {len : Nat} (hlen : 1 ≤ len) : (selectCyclic idx len).1 < len := by
  change (if idx < len then idx else 0) < len
  split <;> omega

/-- SELECT answers an index of the buffer. -/
theorem selectStep_lt (s : Engine N Post) (hlen : 1 ≤ len) : (selectStep P s len).1 < len := by
  rcases pattern_cases (arpPattern P s.active) with h | h | h
  · rw [selectStep_cyclic P h]
    exact selectCyclic_lt s.arpIdx hlen
  · rw [selectStep_upDown P h, selectUpDown_index _ hlen]
    omega
  · rw [selectStep_random P h]
    exact drawIndex_lt P s.draws hlen

end byPattern

/-- Settles O38: UpDown by the cases of the ping-pong, Random by its one draw. -/
theorem pingPongAndRandomSelect : Obligations.PingPongAndRandomSelect := by
  intro N Post P s len
  refine ⟨fun h hlen => ⟨?index, ?rise, ?top, ?fall, ?bottom⟩, fun h => ?one, fun h hlen => ⟨selectStep_lt P s hlen, ?kept, ?draw⟩⟩
  case index => rw [selectStep_upDown P h, selectUpDown_index _ (by omega)]
  case rise =>
    intro hdir hin
    rw [selectStep_upDown P h, hdir, selectUpDown_rise hin]
  case top =>
    intro hdir hend
    rw [selectStep_upDown P h, hdir, selectUpDown_top hlen hend]
  case fall =>
    intro hdir hin
    rw [selectStep_upDown P h, hdir, selectUpDown_fall hin]
  case bottom =>
    intro hdir hzero
    rw [selectStep_upDown P h, hdir, hzero, selectUpDown_bottom (by omega)]
  case one =>
    rw [selectStep_upDown P h, selectUpDown_one]
    exact ⟨rfl, rfl⟩
  case kept => rw [selectStep_random P h]
  case draw =>
    intro i hi
    have hchosen : (selectStep { P with drawIdx := fun _ => i } s len).1 = drawIndex { P with drawIdx := fun _ => i } s.draws len :=
      congrArg Prod.fst (selectStep_random { P with drawIdx := fun _ => i } h)
    exact ⟨fun _ => i, hchosen.trans (drawIndex_of_lt { P with drawIdx := fun _ => i } hi)⟩

end Sys2Proof.Machine
end

section
/-! SUPPORT. ARP_FIRE and the calls of the allocator (46_arpeggiator.md R345, R346): the allocator reads no element of the
arpeggiator, and so a fire is one update of the state it starts from; and the notes that fires in a row emit (R350, R361). -/

namespace Sys2Proof.Machine

variable {N Post : Type} (P : Config.Params N Post)

/-! ## What the allocator reads -/

/-- Two states that the allocator cannot tell apart: the same pool, cursor, TIME and ACTIVE. -/
structure SamePool (s t : Engine N Post) : Prop where
  /-- ACTIVE (R29). -/
  active : t.active = s.active
  /-- TIME (R21). -/
  time : t.time = s.time
  /-- RR_CURSOR (R22). -/
  rrCursor : t.rrCursor = s.rrCursor
  /-- The voices (R47). -/
  voices : t.voices = s.voices

namespace SamePool

variable {P} {s t : Engine N Post}

theorem stealSelect_eq (h : SamePool s t) : (stealSelect P t).1 = (stealSelect P s).1 ∧
    (stealSelect P t).2.rrCursor = (stealSelect P s).2.rrCursor := by
  have hlimited : limitedVoices P t = limitedVoices P s := by rw [limitedVoices, limitedVoices, h.voices, h.active]
  have holdest : oldestSlot P t = oldestSlot P s := by rw [oldestSlot, oldestSlot, hlimited]
  unfold stealSelect
  rw [hlimited, holdest, h.active, h.rrCursor]
  split
  · split
    · exact ⟨rfl, h.rrCursor⟩
    · exact ⟨rfl, rfl⟩
  · exact ⟨rfl, h.rrCursor⟩

theorem allocSelect_eq (h : SamePool s t) (n : Note) : (allocSelect P t n).1 = (allocSelect P s n).1 ∧
    (allocSelect P t n).2.rrCursor = (allocSelect P s n).2.rrCursor := by
  have hretrigger : retriggerSlot P t n = retriggerSlot P s n := by rw [retriggerSlot, retriggerSlot, h.voices, h.active]
  have hfree : freeSlot P t = freeSlot P s := by
    rw [freeSlot, freeSlot, limitedVoices, limitedVoices, h.voices, h.active]
  unfold allocSelect
  rw [hretrigger, hfree]
  split
  · exact ⟨rfl, h.rrCursor⟩
  · split
    · exact ⟨rfl, h.rrCursor⟩
    · exact h.stealSelect_eq

/-- `Alloc.noteOn` does to `t` what it does to `s`. -/
theorem allocNoteOn_eq (h : SamePool s t) (n : Note) (vel : N) : allocNoteOn P t n vel =
    { t with
      rrCursor := (allocNoteOn P s n vel).rrCursor
      voices := (allocNoteOn P s n vel).voices
      events := t.events ++ [.noteOn n vel] } := by
  obtain ⟨hslot, hcursor⟩ := h.allocSelect_eq (P := P) n
  rw [allocNoteOn_frame P s, allocNoteOn_frame P t, hslot, hcursor, h.voices, h.active, h.time]

/-- `Alloc.noteOff` does to `t` what it does to `s`. -/
theorem allocNoteOff_eq (h : SamePool s t) (n : Note) : allocNoteOff P t n =
    { t with voices := (allocNoteOff P s n).voices, events := t.events ++ [.noteOff n] } := by
  have hslot : noteOffSlot P t n = noteOffSlot P s n := by rw [noteOffSlot, noteOffSlot, h.voices, h.active]
  have hvoices : (releaseNote P t n).voices = (releaseNote P s n).voices := by
    unfold releaseNote
    rw [hslot]
    split
    · rw [releaseSlot_voices, releaseSlot_voices, h.voices, h.active]
    · exact h.voices
  rw [allocNoteOff_frame P s, allocNoteOff_frame P t, hvoices]

/-- Nor does ARP_GATE_CLOSE read more than the open note. -/
theorem arpGateClose_eq (h : SamePool s t) (hgate : t.arpGateOpen = s.arpGateOpen) (hnote : t.arpNote = s.arpNote)
    (hevents : t.events = s.events) : arpGateClose P t =
    { t with
      voices := (arpGateClose P s).voices
      events := (arpGateClose P s).events
      arpGateOpen := false } := by
  rw [arpGateClose_frame P t, arpGateClose_voices, arpGateClose_events, arpGateClose_voices, arpGateClose_events, hgate, hnote,
    hevents, h.allocNoteOff_eq, h.voices]

end SamePool

/-! ## One fire (R345) -/

/-- The length of the buffer that a fire selects from. -/
abbrev bufferLength (s : Engine N Post) : Nat := (noteBuffer P s.active s.held).length

/-- SELECT as a fire runs it. -/
abbrev fireSelect (s : Engine N Post) : Nat × Engine N Post := selectStep P s (bufferLength P s)

/-- ARP_FIRE: SELECT stores its index, and the note it chose is played with an open gate. -/
theorem arpFire_eq (s : Engine N Post) : arpFire P s =
    { s with
      arpIdx := (fireSelect P s).2.arpIdx
      arpDir := (fireSelect P s).2.arpDir
      draws := (fireSelect P s).2.draws
      arpNote := nextNote P s
      arpGateOpen := true
      voices := (allocNoteOn P s (nextNote P s) P.arpFixedVel).voices
      rrCursor := (allocNoteOn P s (nextNote P s) P.arpFixedVel).rrCursor
      events := s.events ++ [.noteOn (nextNote P s) P.arpFixedVel] } := by
  have hchosen := selectStep_frame P s (bufferLength P s)
  have hpool : SamePool s { (fireSelect P s).2 with arpNote := nextNote P s } := by
    rw [fireSelect, hchosen]
    exact ⟨rfl, rfl, rfl, rfl⟩
  calc arpFire P s
      = { allocNoteOn P { (fireSelect P s).2 with arpNote := nextNote P s } (nextNote P s) P.arpFixedVel with
          arpGateOpen := true } := rfl
    _ = _ := by
      rw [hpool.allocNoteOn_eq, fireSelect, hchosen]

theorem bufferLength_pos {s : Engine N Post} (h : s.held ≠ []) : 1 ≤ bufferLength P s :=
  List.length_pos_iff.2 (noteBuffer_ne_nil P s.active s.held h)

/-- The note a fire plays is the one at SELECT's index. -/
theorem nextNote_getElem? {s : Engine N Post} (h : noteBuffer P s.active s.held ≠ []) :
    (noteBuffer P s.active s.held)[(fireSelect P s).1]? = some (nextNote P s) := by
  have hlt : (fireSelect P s).1 < bufferLength P s := selectStep_lt P s (List.length_pos_iff.2 h)
  rw [List.getElem?_eq_getElem hlt, nextNote, List.getD_eq_getElem _ _ hlt]

/-! ## Fires in a row (R350, R361) -/

section walk

variable {P} {s : Engine N Post}

theorem arpFire_active : (arpFire P s).active = s.active := by rw [arpFire_frame]
theorem arpFire_held : (arpFire P s).held = s.held := by rw [arpFire_frame]
theorem arpFire_arpGateOpen : (arpFire P s).arpGateOpen = true := by rw [arpFire_frame]
theorem arpFire_arpNote : (arpFire P s).arpNote = nextNote P s := by rw [arpFire_eq]
theorem arpFire_events : (arpFire P s).events = s.events ++ [.noteOn (nextNote P s) P.arpFixedVel] := by rw [arpFire_eq]

theorem arpFire_arpIdx_cyclic (h : IsCyclic (arpPattern P s.active)) :
    (arpFire P s).arpIdx = (selectCyclic s.arpIdx (bufferLength P s)).2 := by
  rw [arpFire_eq, fireSelect, selectStep_cyclic P h]

theorem nextNote_cyclic (h : IsCyclic (arpPattern P s.active)) :
    nextNote P s = (noteBuffer P s.active s.held).getD (selectCyclic s.arpIdx (bufferLength P s)).1 0 := by
  rw [nextNote, selectStep_cyclic P h]

/-- The index that follows index `k` modulo the length is `k + 1` modulo the length. -/
theorem selectCyclic_next {idx len k : Nat} (hlen : 1 ≤ len) (h : (selectCyclic idx len).1 = k % len) :
    (selectCyclic (selectCyclic idx len).2 len).1 = (k + 1) % len := by
  have hnext : (selectCyclic idx len).2 = k % len + 1 := congrArg (· + 1) h
  have hindex : (selectCyclic (k % len + 1) len).1 = if k % len + 1 < len then k % len + 1 else 0 := rfl
  rw [hnext, hindex, ← Nat.mod_add_mod k len 1]
  split
  · next hin => exact (Nat.mod_eq_of_lt hin).symm
  · next hend =>
    have hwrap : k % len + 1 = len := by
      have := Nat.mod_lt k hlen
      omega
    rw [hwrap, Nat.mod_self]

/-- Fires leave the buffer as it is. -/
theorem iterate_arpFire_buffer (s : Engine N Post) (k : Nat) :
    ((arpFire P)^[k] s).active = s.active ∧ ((arpFire P)^[k] s).held = s.held := by
  induction k with
  | zero => exact ⟨rfl, rfl⟩
  | succ k ih =>
    rw [Function.iterate_succ_apply', arpFire_active, arpFire_held]
    exact ih

variable (hpattern : IsCyclic (arpPattern P s.active)) (hbuf : noteBuffer P s.active s.held ≠ []) (hidx : s.arpIdx = 0)

include hpattern hbuf hidx

/-- After `k` fires from ARP_IDX = 0, index `k` modulo the length is next. -/
theorem selectCyclic_iterate_arpFire (k : Nat) :
    (selectCyclic ((arpFire P)^[k] s).arpIdx (bufferLength P s)).1 = k % bufferLength P s := by
  have hlen : 1 ≤ bufferLength P s := List.length_pos_iff.2 hbuf
  induction k with
  | zero =>
    rw [Function.iterate_zero_apply, hidx, Nat.zero_mod]
    exact if_pos hlen
  | succ k ih =>
    obtain ⟨hactive, hheld⟩ := iterate_arpFire_buffer (P := P) s k
    rw [Function.iterate_succ_apply', arpFire_arpIdx_cyclic (by rwa [hactive]), bufferLength, hactive, hheld]
    exact selectCyclic_next hlen ih

theorem nextNote_iterate_arpFire (k : Nat) :
    nextNote P ((arpFire P)^[k] s) = (noteBuffer P s.active s.held).getD (k % bufferLength P s) 0 := by
  obtain ⟨hactive, hheld⟩ := iterate_arpFire_buffer (P := P) s k
  rw [nextNote_cyclic (by rwa [hactive]), bufferLength, hactive, hheld, selectCyclic_iterate_arpFire hpattern hbuf hidx]

theorem iterate_arpFire_events (k : Nat) : ((arpFire P)^[k] s).events = s.events ++ (List.range k).map fun j =>
    .noteOn ((noteBuffer P s.active s.held).getD (j % bufferLength P s) 0) P.arpFixedVel := by
  induction k with
  | zero => exact (List.append_nil _).symm
  | succ k ih =>
    rw [Function.iterate_succ_apply', arpFire_events, ih, nextNote_iterate_arpFire hpattern hbuf hidx, List.range_succ,
      List.map_append, List.append_assoc]
    rfl

end walk

/-- Settles O37: the last of the fires plays the note that is next after the others. -/
theorem cyclicPatternsWalkTheBuffer : Obligations.CyclicPatternsWalkTheBuffer := by
  intro N Post P s buf k hbuf hne hidx hpattern
  subst hbuf
  have hlt : k % bufferLength P s < bufferLength P s := Nat.mod_lt k (List.length_pos_iff.2 hne)
  refine ⟨?note, ?gate, iterate_arpFire_events hpattern hne hidx (k + 1)⟩
  case note =>
    rw [Function.iterate_succ_apply', arpFire_arpNote, nextNote_iterate_arpFire hpattern hne hidx,
      List.getD_eq_getElem _ _ hlt, List.getElem?_eq_getElem hlt]
  case gate => rw [Function.iterate_succ_apply', arpFire_arpGateOpen]

end Sys2Proof.Machine
end

section
/-! SUPPORT. Key events under the arpeggiator: the start and the stop of the sequencer (46_arpeggiator.md R341, R342, R344). -/

namespace Sys2Proof.Machine

variable {N Post : Type} (P : Config.Params N Post)

/-! ## The start (R341) -/

/-- The sequencer at step 0, its length drawn, before the first fire. -/
def arpBegun (s : Engine N Post) : Engine N Post :=
  startLength P { s with arpRun := true, arpAcc := numOf P 0, arpStep := 0, arpIdx := 0, arpDir := .plus }

theorem arpStart_eq_fire (s : Engine N Post) : arpStart P s = arpFire P (arpBegun P s) := rfl

/-- SELECT at a start: the first note, with the second one next, but for Random, which draws. -/
theorem selectStep_start {s : Engine N Post} {len : Nat} (hlen : 1 ≤ len) (hidx : s.arpIdx = 0) (hdir : s.arpDir = .plus) :
    (arpPattern P s.active ≠ .random → (selectStep P s len).1 = 0) ∧
    (selectStep P s len).2.arpIdx = (if arpPattern P s.active = .random then 0 else 1) ∧
    (selectStep P s len).2.arpDir = .plus ∧
    (selectStep P s len).2.draws = if arpPattern P s.active = .random then s.draws + 1 else s.draws := by
  rcases pattern_cases (arpPattern P s.active) with h | h | h
  · have hnotRandom : arpPattern P s.active ≠ .random := fun hr => absurd (hr ▸ h) (by decide : ¬IsCyclic .random)
    have hfirst : (selectCyclic 0 len).1 = 0 := if_pos hlen
    have hsecond : (selectCyclic 0 len).2 = 1 := congrArg (· + 1) hfirst
    rw [selectStep_cyclic P h, if_neg hnotRandom, if_neg hnotRandom, hidx]
    exact ⟨fun _ => hfirst, hsecond, hdir, rfl⟩
  · rw [selectStep_upDown P h, h, hidx, hdir, selectUpDown_start hlen]
    exact ⟨fun _ => rfl, rfl, rfl, rfl⟩
  · rw [selectStep_random P h, if_pos h, if_pos h]
    exact ⟨fun hnot => absurd h hnot, hidx, hdir, rfl⟩

/-- The start's own SELECT, after the draw of its length. -/
theorem fireSelect_arpBegun {s : Engine N Post} (hheld : s.held ≠ []) :
    (arpPattern P s.active ≠ .random → (fireSelect P (arpBegun P s)).1 = 0) ∧
    (fireSelect P (arpBegun P s)).2.arpIdx = (if arpPattern P s.active = .random then 0 else 1) ∧
    (fireSelect P (arpBegun P s)).2.arpDir = .plus ∧
    (fireSelect P (arpBegun P s)).2.draws = if arpPattern P s.active = .random then s.draws + 2 else s.draws + 1 :=
  selectStep_start P (s := arpBegun P s) (bufferLength_pos P (s := arpBegun P s) hheld) rfl rfl

section start

variable {P} {held : List Note} (s : Engine N Post) (hheld : held ≠ [])

include hheld

/-- The first note of a start is a note of the buffer, and but for Random its first. -/
theorem arpStart_note : (arpStart P { s with held := held }).arpNote ∈ noteBuffer P s.active held ∧
    (arpPattern P s.active ≠ .random →
      some (arpStart P { s with held := held }).arpNote = (noteBuffer P s.active held)[0]?) := by
  have hnote : (noteBuffer P s.active held)[(fireSelect P (arpBegun P { s with held := held })).1]? =
      some (arpStart P { s with held := held }).arpNote := by
    rw [arpStart_eq_fire, arpFire_arpNote]
    exact nextNote_getElem? P (s := arpBegun P { s with held := held }) (noteBuffer_ne_nil P s.active held hheld)
  refine ⟨List.mem_of_getElem? hnote, fun hpattern => ?_⟩
  obtain ⟨hfirst, -⟩ := fireSelect_arpBegun P (s := { s with held := held }) hheld
  rw [← hnote, hfirst hpattern]

/-- A start as one update. -/
theorem arpStart_eq : arpStart P { s with held := held } =
    { s with
      held := held
      arpRun := true
      arpAcc := numOf P 0
      arpStep := 0
      arpIdx := if arpPattern P s.active = .random then 0 else 1
      arpDir := .plus
      arpLen := stepLength P s 0
      draws := if arpPattern P s.active = .random then s.draws + 2 else s.draws + 1
      arpNote := (arpStart P { s with held := held }).arpNote
      arpGateOpen := true
      voices := (allocNoteOn P s (arpStart P { s with held := held }).arpNote P.arpFixedVel).voices
      rrCursor := (allocNoteOn P s (arpStart P { s with held := held }).arpNote P.arpFixedVel).rrCursor
      events := s.events ++ [.noteOn (arpStart P { s with held := held }).arpNote P.arpFixedVel] } := by
  have hpool : SamePool s (arpBegun P { s with held := held }) := ⟨rfl, rfl, rfl, rfl⟩
  obtain ⟨-, hidx, hdir, hdraws⟩ := fireSelect_arpBegun P (s := { s with held := held }) hheld
  rw [arpStart_eq_fire, arpFire_arpNote, arpFire_eq, hpool.allocNoteOn_eq, hidx, hdir, hdraws]
  rfl

end start

/-! ## A key press (R341) -/

section keys

variable {P} {s : Engine N Post} {n : Note}

theorem arpKeyDown_ignored (h : n ∈ s.held ∨ s.held.length = P.heldMax) : arpKeyDown P s n = s := by
  refine if_pos ?_
  rwa [Bool.or_eq_true, List.contains_iff_mem, decide_eq_true_iff]

theorem arpKeyDown_appended (hnew : n ∉ s.held) (hroom : s.held.length ≠ P.heldMax) (hmore : s.held ≠ []) :
    arpKeyDown P s n = { s with held := s.held ++ [n] } := by
  have htaken : ¬(s.held.contains n || decide (s.held.length = P.heldMax)) = true := by
    rw [Bool.or_eq_true, List.contains_iff_mem, decide_eq_true_iff]
    exact not_or.2 ⟨hnew, hroom⟩
  rw [arpKeyDown, if_neg htaken]
  exact if_neg (mt List.isEmpty_iff.1 hmore)

theorem arpKeyDown_first (hheld : s.held = []) (hcap : P.heldMax ≠ 0) :
    arpKeyDown P s n = arpStart P { s with held := [n] } := by
  have htaken : ¬(s.held.contains n || decide (s.held.length = P.heldMax)) = true := by
    simp [hheld, hcap.symm]
  rw [arpKeyDown, if_neg htaken, hheld]
  rfl

/-! ## A key release (R342, R344) -/

theorem arpKeyUp_ignored (h : n ∉ s.held) : arpKeyUp P s n = s :=
  if_neg (mt List.contains_iff_mem.1 h)

theorem arpKeyUp_removed (hn : n ∈ s.held) (hmore : ∃ m ∈ s.held, m ≠ n) :
    arpKeyUp P s n = { s with held := s.held.filter fun m => m ≠ n } := by
  obtain ⟨m, hm, hne⟩ := hmore
  have hrest : m ∈ s.held.filter fun x => x != n := List.mem_filter.2 ⟨hm, bne_iff_ne.2 hne⟩
  have hsame : (s.held.filter fun x => x != n) = s.held.filter fun m => m ≠ n :=
    List.filter_congr fun x _ => by rw [Bool.eq_iff_iff, bne_iff_ne, decide_eq_true_iff]
  rw [arpKeyUp, if_pos (List.contains_iff_mem.2 hn), ← hsame]
  exact if_neg (mt List.isEmpty_iff.1 (List.ne_nil_of_mem hrest))

theorem arpKeyUp_last (hn : n ∈ s.held) (hlast : ∀ m ∈ s.held, m = n) : arpKeyUp P s n = arpDisable P s := by
  have hnone : (s.held.filter fun x => x != n) = [] :=
    List.filter_eq_nil_iff.2 fun m hm => by simp [hlast m hm]
  rw [arpKeyUp, if_pos (List.contains_iff_mem.2 hn), hnone]
  exact arpStop_nil_held P s

end keys

/-! ## NOTE_ON and NOTE_OFF with the arpeggiator on (R260, R261) -/

section words

variable {s : State} {n : Note} {e : RefEngine} (harp : arpOn ref s.active = true)

include harp

theorem exec_noteOn_arp (vel : Code) (h : arpKeyDown ref s.toEngine n = e) :
    exec (.noteOn n vel) s = .next { s with toEngine := e } :=
  exec_eq_next ((if_pos harp).trans h)

theorem exec_noteOff_arp (h : arpKeyUp ref s.toEngine n = e) : exec (.noteOff n) s = .next { s with toEngine := e } :=
  exec_eq_next ((if_pos harp).trans h)

end words

/-- Settles O35: the three cases of ARP_KEY_DOWN, the last one a start. -/
theorem arpKeyDownCases : Obligations.ArpKeyDownCases := by
  intro s n vel harp
  refine ⟨fun h => ?ignored, fun hnew hroom hmore => ?appended, fun hheld => ?first⟩
  case ignored => exact exec_noteOn_arp harp vel (arpKeyDown_ignored h)
  case appended => exact exec_noteOn_arp harp vel (arpKeyDown_appended hnew hroom hmore)
  case first =>
    have hone : [n] ≠ [] := List.cons_ne_nil n []
    obtain ⟨hmem, hfirst⟩ := arpStart_note (P := ref) s.toEngine hone
    exact ⟨_, exec_noteOn_arp harp vel (arpKeyDown_first hheld (by decide)), hmem, hfirst,
      congrArg (fun e => { s with toEngine := e }) (arpStart_eq s.toEngine hone)⟩

/-- Settles O36: the three cases of ARP_KEY_UP; the stop with nothing held is ARP_DISABLE. -/
theorem arpKeyUpCases : Obligations.ArpKeyUpCases := by
  intro s n harp
  refine ⟨fun h => ?ignored, fun hn hmore => ?removed, fun hn hlast => ?last⟩
  case ignored => exact exec_noteOff_arp harp (arpKeyUp_ignored h)
  case removed => exact exec_noteOff_arp harp (arpKeyUp_removed hn hmore)
  case last =>
    rw [exec_noteOff_arp harp (arpKeyUp_last hn hlast), arpDisable_frame, arpGateClose_voices, arpGateClose_events]

end Sys2Proof.Machine
end

section
/-! SUPPORT. The step length over ℝ, as a function of the draw (46_arpeggiator.md R355-R357). -/

namespace Sys2Proof.Machine

/-- R355 over ℝ. -/
theorem swingFactor_realRef (b : Bank) (k : Nat) : swingFactor realRef b k =
    if k % 2 = 0 then 1 + arpSwing realRef b / 2 else 1 - arpSwing realRef b / 2 := by
  simp only [swingFactor, numOf_realRef, realRef_add, realRef_sub, realRef_div]
  norm_num

/-- R357 over ℝ: a variate within R14's bound is not clamped. -/
theorem stepLength_drawJit {s : Engine ℝ Config.PostState} {jit : Nat → ℝ} (hlo : -1 ≤ jit s.draws) (hhi : jit s.draws ≤ 1)
    (k : Nat) : stepLength { realRef with drawJit := jit } s k =
      s.arpBase * (if k % 2 = 0 then 1 + arpSwing realRef s.active / 2 else 1 - arpSwing realRef s.active / 2)
        * (1 + arpJitter realRef s.active * jit s.draws) := by
  have hform : stepLength { realRef with drawJit := jit } s k = s.arpBase * swingFactor realRef s.active k *
      ((1 : ℚ) + arpJitter realRef s.active * min (max (jit s.draws) (-1 : ℚ)) (1 : ℚ)) := rfl
  rw [hform, swingFactor_realRef]
  push_cast
  rw [max_eq_left hlo, min_eq_left hhi]

/-- R14: the variates of a run are within the bound. -/
theorem stepLength_realRef (s : Engine ℝ Config.PostState) (k : Nat) : stepLength realRef s k =
    s.arpBase * (if k % 2 = 0 then 1 + arpSwing realRef s.active / 2 else 1 - arpSwing realRef s.active / 2)
      * (1 + arpJitter realRef s.active * Config.jitter.value s.draws) := by
  obtain ⟨hlo, hhi⟩ := Config.jitter.bounded s.draws
  exact stepLength_drawJit hlo hhi k

/-- R355: the swing factor is at least 2/3. -/
theorem swing_ge {swing : ℝ} (hlo : 0 ≤ swing) (hhi : swing ≤ 2 / 3) (k : Nat) :
    2 / 3 ≤ if k % 2 = 0 then 1 + swing / 2 else 1 - swing / 2 := by
  split <;> linarith

/-- R356: the jitter factor is at least 1/2. -/
theorem jitter_ge {amount u : ℝ} (hlo : 0 ≤ amount) (hhi : amount ≤ 1 / 2) (hu : -1 ≤ u) : 1 / 2 ≤ 1 + amount * u := by
  nlinarith [mul_le_mul_of_nonneg_left hu hlo]

/-- Settles O41: the formula holds for every variate of [-1, 1], and its two factors are bounded each on its own. -/
theorem stepLengthBounds : Obligations.StepLengthBounds := by
  intro s k hbase
  obtain ⟨hswing0, hswing1⟩ := arpSwing_bounds s.active
  obtain ⟨hjitter0, hjitter1⟩ := arpJitter_bounds s.active
  rw [arpSwing_toReal] at hswing0 hswing1
  rw [arpJitter_toReal] at hjitter0 hjitter1
  obtain ⟨hlo, hhi⟩ := Config.jitter.bounded s.draws
  refine ⟨fun u hu0 hu1 => stepLength_drawJit hu0 hu1 k, ⟨Config.jitter.value s.draws, hlo, hhi, rfl⟩, hswing0, hswing1,
    hjitter0, hjitter1, ?bound, fun hnone draws => ?still, fun x hx => ?denotes⟩
  case bound =>
    rw [stepLength_realRef]
    exact mul_le_mul (mul_le_mul_of_nonneg_left (swing_ge hswing0 hswing1 k) hbase) (jitter_ge hjitter0 hjitter1 hlo)
      (by norm_num) (mul_nonneg hbase (le_trans (by norm_num) (swing_ge hswing0 hswing1 k)))
  case still => rw [stepLength_realRef, stepLength_realRef, hnone, zero_mul, zero_mul]
  case denotes => rw [← hx, stepLength_map]

end Sys2Proof.Machine
end

section
/-! SUPPORT. ARP_TICK: its two questions, the gate end and the step end (46_arpeggiator.md R347, R358). -/

namespace Sys2Proof.Machine

variable {N Post : Type} (P : Config.Params N Post)

/-! ## The gate end (R347 point 2) -/

section gateEnd

variable {P} {s : Engine N Post}

theorem arpGateEnd_still (h : s.arpGateOpen = false ∨ arpGateFraction P s.active = 1 ∨ gateOver P s = false) :
    arpGateEnd P s = s := by
  refine if_neg ?_
  rcases h with h | h | h <;> simp [h]

theorem arpGateEnd_closes (hopen : s.arpGateOpen = true) (hgate : arpGateFraction P s.active < 1) (hover : gateOver P s = true) :
    arpGateEnd P s = { allocNoteOff P s s.arpNote with arpGateOpen := false } := by
  have hcond : (s.arpGateOpen && decide (arpGateFraction P s.active < 1) && gateOver P s) = true := by
    simp [hopen, hgate, hover]
  rw [arpGateEnd, if_pos hcond, arpGateClose_open hopen]

end gateEnd

/-! ## The step end (R347 point 1) -/

section stepEnd

variable {P} {s : Engine N Post}

theorem arpStepEnd_inside (h : stepOver P s = false) : arpStepEnd P s = s := if_neg (by simp [h])

/-- The next step, its length drawn, before it fires. -/
def arpStepped (P : Config.Params N Post) (s : Engine N Post) : Engine N Post :=
  letI := P.num
  startLength P { arpGateClose P { s with arpAcc := s.arpAcc - s.arpLen } with arpStep := s.arpStep + 1 }

theorem arpStepEnd_over (h : stepOver P s = true) : arpStepEnd P s = arpFire P (arpStepped P s) := by
  rw [arpStepEnd, if_pos h, arpStepped, arpGateClose_frame]

/-- The state at a step's end once the open note, if any, has its `Alloc.noteOff`. -/
def noteClosed (P : Config.Params N Post) (s : Engine N Post) : Engine N Post :=
  if s.arpGateOpen = true then allocNoteOff P s s.arpNote else s

theorem noteClosed_frame (s : Engine N Post) :
    noteClosed P s = { s with voices := (arpGateClose P s).voices, events := (arpGateClose P s).events } := by
  rw [arpGateClose_voices, arpGateClose_events]
  unfold noteClosed
  split
  · rw [allocNoteOff_frame]
  · rfl

/-- ARP_GATE_CLOSE does not read ARP_ACC. -/
theorem arpGateClose_arpAcc (s : Engine N Post) (acc : N) :
    arpGateClose P { s with arpAcc := acc } = { noteClosed P s with arpAcc := acc, arpGateOpen := false } := by
  have hpool : SamePool s { s with arpAcc := acc } := ⟨rfl, rfl, rfl, rfl⟩
  rw [hpool.arpGateClose_eq rfl rfl rfl, noteClosed_frame]

/-- The next step as one update of the state whose step ended. -/
theorem arpStepped_eq (s : Engine N Post) : arpStepped P s =
    letI := P.num
    { noteClosed P s with
      arpAcc := s.arpAcc - s.arpLen
      arpStep := s.arpStep + 1
      arpLen := stepLength P s (s.arpStep + 1)
      draws := s.draws + 1
      arpGateOpen := false } := by
  rw [arpStepped, arpGateClose_arpAcc, noteClosed_frame]
  rfl

/-- The next step leaves ACTIVE, HELD, ARP_IDX and ARP_DIR, and has counted the draw of its length. -/
theorem arpStepped_frame (s : Engine N Post) : (arpStepped P s).active = s.active ∧ (arpStepped P s).held = s.held ∧
    (arpStepped P s).arpIdx = s.arpIdx ∧ (arpStepped P s).arpDir = s.arpDir ∧ (arpStepped P s).draws = s.draws + 1 := by
  rw [arpStepped_eq, noteClosed_frame]
  exact ⟨rfl, rfl, rfl, rfl, rfl⟩

/-- SELECT reads the pattern, ARP_IDX, ARP_DIR and the count of draws only. -/
theorem selectStep_congr {s t : Engine N Post} (hactive : t.active = s.active) (hidx : t.arpIdx = s.arpIdx)
    (hdir : t.arpDir = s.arpDir) (hdraws : t.draws = s.draws) (len : Nat) :
    (selectStep P t len).1 = (selectStep P s len).1 ∧ (selectStep P t len).2.arpIdx = (selectStep P s len).2.arpIdx ∧
    (selectStep P t len).2.arpDir = (selectStep P s len).2.arpDir ∧
    (selectStep P t len).2.draws = (selectStep P s len).2.draws := by
  unfold selectStep
  rw [hactive, hidx, hdir, hdraws]
  split
  case h_5 => exact ⟨rfl, hidx, hdir, rfl⟩
  all_goals exact ⟨rfl, rfl, rfl, rfl⟩

/-- SELECT as the fire at a step's end runs it, with the draw of the new length counted. -/
abbrev stepSelect (P : Config.Params N Post) (s : Engine N Post) : Nat × Engine N Post :=
  selectStep P { s with draws := s.draws + 1 } (bufferLength P s)

/-- The state after a step's end that fires `note`. -/
def stepFired (P : Config.Params N Post) (s : Engine N Post) (note : Note) : Engine N Post :=
  letI := P.num
  { allocNoteOn P (noteClosed P s) note P.arpFixedVel with
    arpAcc := s.arpAcc - s.arpLen
    arpStep := s.arpStep + 1
    arpLen := stepLength P s (s.arpStep + 1)
    arpIdx := (stepSelect P s).2.arpIdx
    arpDir := (stepSelect P s).2.arpDir
    draws := (stepSelect P s).2.draws
    arpNote := note
    arpGateOpen := true }

theorem stepFired_active (note : Note) : (stepFired P s note).active = s.active := by
  rw [stepFired, allocNoteOn_frame, noteClosed_frame]

/-- The buffer and what SELECT reads are those of the state whose step ended. -/
theorem fireSelect_arpStepped (s : Engine N Post) :
    noteBuffer P (arpStepped P s).active (arpStepped P s).held = noteBuffer P s.active s.held ∧
    (fireSelect P (arpStepped P s)).1 = (stepSelect P s).1 ∧
    (fireSelect P (arpStepped P s)).2.arpIdx = (stepSelect P s).2.arpIdx ∧
    (fireSelect P (arpStepped P s)).2.arpDir = (stepSelect P s).2.arpDir ∧
    (fireSelect P (arpStepped P s)).2.draws = (stepSelect P s).2.draws := by
  obtain ⟨hactive, hheld, hidx, hdir, hdraws⟩ := arpStepped_frame (P := P) s
  refine ⟨by rw [hactive, hheld], ?_⟩
  rw [fireSelect, bufferLength, hactive, hheld]
  exact selectStep_congr (s := { s with draws := s.draws + 1 }) hactive hidx hdir hdraws _

theorem nextNote_arpStepped {note : Note}
    (h : (noteBuffer P s.active s.held)[(stepSelect P s).1]? = some note) : nextNote P (arpStepped P s) = note := by
  obtain ⟨hbuffer, hindex, -⟩ := fireSelect_arpStepped (P := P) s
  have hchosen : nextNote P (arpStepped P s) =
      (noteBuffer P (arpStepped P s).active (arpStepped P s).held).getD (fireSelect P (arpStepped P s)).1 0 := rfl
  rw [hchosen, hbuffer, hindex, List.getD_eq_getElem?_getD, h, Option.getD_some]

/-- A step's end: the open note is closed, and the note that SELECT chooses fires. -/
theorem arpStepEnd_fires {note : Note} (hover : stepOver P s = true)
    (hnote : (noteBuffer P s.active s.held)[(stepSelect P s).1]? = some note) : arpStepEnd P s = stepFired P s note := by
  have hpool : SamePool (noteClosed P s) (arpStepped P s) := by
    rw [arpStepped_eq]
    exact ⟨rfl, rfl, rfl, rfl⟩
  obtain ⟨-, -, hidx, hdir, hdraws⟩ := fireSelect_arpStepped (P := P) s
  rw [arpStepEnd_over hover, arpFire_eq, nextNote_arpStepped hnote, hpool.allocNoteOn_eq, hidx, hdir, hdraws, arpStepped_eq,
    stepFired, allocNoteOn_frame]

end stepEnd

/-! ## ARP_TICK (R347) -/

section tick

variable {P} {s : Engine N Post}

theorem arpTick_stopped (h : s.arpRun = false) : arpTick P s = s := if_neg (by simp [h])

theorem arpTick_running (h : s.arpRun = true) : arpTick P s =
    letI := P.num
    { arpGateEnd P (arpStepEnd P s) with arpAcc := (arpGateEnd P (arpStepEnd P s)).arpAcc + numOf P 1 } := if_pos h

/-- A sample inside a step and inside its gate. -/
theorem arpTick_still (hrun : s.arpRun = true) (hstep : stepOver P s = false)
    (h : s.arpGateOpen = false ∨ arpGateFraction P s.active = 1 ∨ gateOver P s = false) :
    arpTick P s = letI := P.num; { s with arpAcc := s.arpAcc + numOf P 1 } := by
  rw [arpTick_running hrun, arpStepEnd_inside hstep, arpGateEnd_still h]

/-- A sample inside a step at which its gate ends. -/
theorem arpTick_closes (hrun : s.arpRun = true) (hstep : stepOver P s = false) (hopen : s.arpGateOpen = true)
    (hgate : arpGateFraction P s.active < 1) (hover : gateOver P s = true) :
    arpTick P s =
      letI := P.num
      { s with
        arpAcc := s.arpAcc + numOf P 1
        arpGateOpen := false
        voices := (allocNoteOff P s s.arpNote).voices
        events := s.events ++ [.noteOff s.arpNote] } := by
  rw [arpTick_running hrun, arpStepEnd_inside hstep, arpGateEnd_closes hopen hgate hover, allocNoteOff_frame]

variable {note : Note} (hrun : s.arpRun = true) (hstep : stepOver P s = true)
  (hnote : (noteBuffer P s.active s.held)[(stepSelect P s).1]? = some note)

include hrun hstep hnote

/-- A step's end whose note stays open. -/
theorem arpTick_fires (h : arpGateFraction P s.active = 1 ∨ gateOver P (stepFired P s note) = false) :
    arpTick P s = letI := P.num; { stepFired P s note with arpAcc := s.arpAcc - s.arpLen + numOf P 1 } := by
  rw [arpTick_running hrun, arpStepEnd_fires hstep hnote, arpGateEnd_still (.inr (by rwa [stepFired_active]))]
  rfl

/-- A step's end whose note closes at once. -/
theorem arpTick_firesShut (hgate : arpGateFraction P s.active < 1) (hover : gateOver P (stepFired P s note) = true) :
    arpTick P s =
      letI := P.num
      { allocNoteOff P (stepFired P s note) note with
        arpAcc := s.arpAcc - s.arpLen + numOf P 1
        arpGateOpen := false } := by
  have hfired : (stepFired P s note).arpNote = note := rfl
  rw [arpTick_running hrun, arpStepEnd_fires hstep hnote, arpGateEnd_closes rfl (by rwa [stepFired_active]) hover, hfired,
    allocNoteOff_frame]
  rfl

end tick

/-! ## The comparisons (R347, R358) -/

theorem stepOver_realRef (s : Engine ℝ Config.PostState) : stepOver realRef s = true ↔ s.arpLen ≤ s.arpAcc := realRef_le _ _

theorem gateOver_realRef (s : Engine ℝ Config.PostState) :
    gateOver realRef s = true ↔ (arpGateFraction realRef s.active : ℝ) * s.arpLen ≤ s.arpAcc := realRef_le _ _

theorem stepOver_ref {s : RefEngine} (h : ArpLengthsOk s) : stepOver ref s = true ↔ s.arpLen.toReal ≤ s.arpAcc.toReal := by
  obtain ⟨hacc, -, hlen, -⟩ := h
  exact exactLe_iff hlen hacc

theorem gateOver_ref {s : RefEngine} (h : ArpLengthsOk s) :
    gateOver ref s = true ↔ (arpGateFraction ref s.active : ℝ) * s.arpLen.toReal ≤ s.arpAcc.toReal := by
  obtain ⟨hacc, -, hlen, -⟩ := h
  have hiff := exactLe_iff (isLinear_exactMul (isRat_rat (arpGateFraction ref s.active)) hlen) hacc
  rwa [exactMul_toReal] at hiff

/-- Settles O39: the four cases of a tick; a step's end has a note to fire, since a held note is in the buffer. -/
theorem arpTickCases : Obligations.ArpTickCases := by
  refine ⟨fun N Post P s => ⟨arpTick_stopped, arpTick_still, arpTick_closes, ?ends, ?note⟩,
    fun s => ⟨stepOver_realRef s, gateOver_realRef s⟩, fun s h => ⟨stepOver_ref h, gateOver_ref h⟩⟩
  case ends =>
    intro hrun hstep _ closed chosen fired note hclosed hchosen hnote hfired
    have hstate : fired = stepFired P s note := by
      rw [hfired, hclosed, hchosen]
      rfl
    rw [hstate]
    exact ⟨arpTick_fires hrun hstep hnote, arpTick_firesShut hrun hstep hnote⟩
  case note =>
    intro hheld
    exact ⟨_, List.getElem?_eq_getElem (selectStep_lt P { s with draws := s.draws + 1 } (bufferLength_pos P hheld))⟩

end Sys2Proof.Machine
end

section
/-! SUPPORT. How long a note sounds, over ℝ (46_arpeggiator.md R358): the ticks inside the gate, and the one that closes it. -/

namespace Sys2Proof.Machine

/-- The gate of the present step, in samples of ARP_ACC (R358). -/
noncomputable def gateLength (s : Engine ℝ Config.PostState) : ℝ := (arpGateFraction realRef s.active : ℝ) * s.arpLen

section gate

variable {s : Engine ℝ Config.PostState}

theorem stepOver_realRef_false (h : s.arpAcc < s.arpLen) : stepOver realRef s = false := by
  rw [← Bool.not_eq_true, stepOver_realRef, not_le]
  exact h

theorem gateOver_realRef_false (h : s.arpAcc < gateLength s) : gateOver realRef s = false := by
  rw [← Bool.not_eq_true, gateOver_realRef, not_le]
  exact h

/-- A tick inside the gate moves ARP_ACC only. -/
theorem arpTick_realRef_still (hrun : s.arpRun = true) (hstep : s.arpAcc < s.arpLen) (hgate : s.arpAcc < gateLength s) :
    arpTick realRef s = { s with arpAcc := s.arpAcc + 1 } := by
  rw [arpTick_still hrun (stepOver_realRef_false hstep) (.inr (.inr (gateOver_realRef_false hgate))), numOf_realRef,
    realRef_add, Rat.cast_one]

/-- The tick at the gate's end closes it. -/
theorem arpTick_realRef_closes (hrun : s.arpRun = true) (hopen : s.arpGateOpen = true)
    (hfraction : arpGateFraction realRef s.active < 1) (hstep : s.arpAcc < s.arpLen) (hgate : gateLength s ≤ s.arpAcc) :
    arpTick realRef s =
      { s with
        arpAcc := s.arpAcc + 1
        arpGateOpen := false
        voices := (allocNoteOff realRef s s.arpNote).voices
        events := s.events ++ [.noteOff s.arpNote] } := by
  rw [arpTick_closes hrun (stepOver_realRef_false hstep) hopen hfraction ((gateOver_realRef s).2 hgate), numOf_realRef,
    realRef_add, Rat.cast_one]

/-- As long as the gate has not run out, ticks only count samples. -/
theorem iterate_arpTick_realRef (hrun : s.arpRun = true) (hstep : gateLength s ≤ s.arpLen) (m : Nat)
    (hm : ∀ k < m, s.arpAcc + (k : ℝ) < gateLength s) : (arpTick realRef)^[m] s = { s with arpAcc := s.arpAcc + (m : ℝ) } := by
  induction m with
  | zero => rw [Function.iterate_zero_apply, Nat.cast_zero, add_zero]
  | succ m ih =>
    have hinside : s.arpAcc + (m : ℝ) < gateLength s := hm m m.lt_succ_self
    rw [Function.iterate_succ_apply', ih fun k hk => hm k (hk.trans m.lt_succ_self),
      arpTick_realRef_still (s := { s with arpAcc := s.arpAcc + (m : ℝ) }) hrun (hinside.trans_le hstep) hinside, add_assoc,
      Nat.cast_succ]

end gate

/-- Settles O40: the gate has run out at the least whole number of samples that is not below what is left of it. -/
theorem gateLastsItsFraction : Obligations.GateLastsItsFraction := by
  intro s gate n hgate hrun hopen hlt hacc hlen hn
  have hlength : gate * s.arpLen = gateLength s := by rw [hgate, gateLength]
  rw [hlength] at hacc hlen hn
  rw [Int.ceil_toNat] at hn
  have hinside (k : Nat) (hk : k < n) : s.arpAcc + (k : ℝ) < gateLength s := by
    rw [hn, Nat.lt_ceil] at hk
    linarith
  have hticks (m : Nat) (hm : m ≤ n) : (arpTick realRef)^[m] s = { s with arpAcc := s.arpAcc + (m : ℝ) } :=
    iterate_arpTick_realRef hrun (by linarith) m fun k hk => hinside k (hk.trans_le hm)
  have hend : gateLength s ≤ s.arpAcc + (n : ℝ) := by
    have := Nat.le_ceil (gateLength s - s.arpAcc)
    rw [← hn] at this
    linarith
  have hbefore : s.arpAcc + (n : ℝ) < s.arpLen := by
    have := Nat.ceil_lt_add_one (sub_nonneg.2 hacc)
    rw [← hn] at this
    linarith
  have hfraction : arpGateFraction realRef s.active < 1 := by
    rw [hgate] at hlt
    exact_mod_cast hlt
  have hpool : SamePool s { s with arpAcc := s.arpAcc + (n : ℝ) } := ⟨rfl, rfl, rfl, rfl⟩
  have hclosed : (arpTick realRef)^[n + 1] s =
      { s with
        arpAcc := s.arpAcc + (n : ℝ) + 1
        arpGateOpen := false
        voices := (allocNoteOff realRef s s.arpNote).voices
        events := s.events ++ [.noteOff s.arpNote] } := by
    rw [Function.iterate_succ_apply', hticks n le_rfl,
      arpTick_realRef_closes (s := { s with arpAcc := s.arpAcc + (n : ℝ) }) hrun hopen hfraction hbefore hend,
      hpool.allocNoteOff_eq]
  exact ⟨hticks, by rw [hclosed], hclosed⟩

end Sys2Proof.Machine
end

section
/-! SUPPORT. The block boundary (47_sample_clock.md R392): INSTALL, DRAIN and BASE in this order, and what ACTIVE is after them. -/

namespace Sys2Proof.Machine

variable {N Post : Type} {P : Config.Params N Post}

/-! ## ACTIVE at a boundary (R303, R304) -/

/-- INSTALL puts PENDING in ACTIVE, ARP_DISABLE or not. -/
theorem install_active_pending {s : Engine N Post} (h : s.pendingValid = true) : (install P s).active = s.pending := by
  rw [install, if_pos h]
  dsimp only
  split
  · rw [arpDisable_frame]
  · rfl

theorem install_cmdq (s : Engine N Post) : (install P s).cmdq = s.cmdq := by rw [install_frame]

/-- A store in ACTIVE reads no element but ACTIVE. -/
theorem StoresOneWord.active_congr {f : Engine N Post → Engine N Post} (hf : StoresOneWord P f) {s t : Engine N Post}
    (h : s.active = t.active) : (f s).active = (f t).active := by
  obtain hid | ⟨r, w, hstore⟩ := hf
  · rw [hid, hid, h]
  · rw [hstore, hstore, writeActive_active, writeActive_active, h]

/-- The bank that records make of ACTIVE depends on ACTIVE only. -/
theorem applyRecords_active_congr (rs : List Rec) {s t : Engine N Post} (h : s.active = t.active) :
    (rs.foldl (fun s r => applyRecord P r s) s).active = (rs.foldl (fun s r => applyRecord P r s) t).active := by
  induction rs generalizing s t with
  | nil => exact h
  | cons r rs ih => exact ih ((applyRecord_storesOneWord r).active_congr h)

/-- At a boundary the records that were queued are applied on top of the bank that INSTALL leaves. -/
theorem blockBoundary_active {s t : Engine N Post} (h : (install P s).active = t.active) :
    (blockBoundary P s).active = (s.cmdq.foldl (fun s r => applyRecord P r s) t).active := by
  rw [blockBoundary, updateBase_active, drain, install_cmdq]
  exact applyRecords_active_congr s.cmdq h

/-! ## The rest of the state at a boundary (R392) -/

/-- DRAIN and the update of ARP_BASE change ACTIVE, CMDQ and ARP_BASE of what INSTALL leaves. -/
theorem blockBoundary_afterInstall (s : Engine N Post) :
    blockBoundary P s =
      { install P s with active := (blockBoundary P s).active, cmdq := [], arpBase := (blockBoundary P s).arpBase } := by
  unfold blockBoundary updateBase
  rw [drain_frame]

/-- ARP_BASE is computed last, from the bank that results (R308, R353). -/
theorem blockBoundary_arpBase (s : Engine N Post) :
    (blockBoundary P s).arpBase = baseLength P (blockBoundary P s).active := rfl

/-- Settles O55: ACTIVE is a fold of CMDQ over what INSTALL leaves, whichever bank that is, and the frames give the rest. -/
theorem boundaryOrder : Obligations.BoundaryOrder := by
  rintro s _ rfl
  have hframe := blockBoundary_frame ref s
  refine ⟨blockBoundary_afterInstall s, fun h => ?installed, fun h => ?kept, ?cmdq, ?valid, blockBoundary_arpBase s, ?shadow,
    ?pending, ?time⟩
  case installed => exact blockBoundary_active (t := { s with active := s.pending }) (install_active_pending h)
  case kept => exact blockBoundary_active (by rw [install_nothingPending h])
  all_goals rw [hframe]

end Sys2Proof.Machine
end

section
/-! SUPPORT. The sample step (47_sample_clock.md R391, R393): its parts in order, and a step with nothing to play. -/

namespace Sys2Proof.Machine

variable {N Post : Type} {P : Config.Params N Post}

/-! ## The order of a step (R391) -/

theorem atBoundary_ref_iff (s : RefEngine) : atBoundary ref s = true ↔ s.time.toNat % 64 = 0 := decide_eq_true_iff

theorem not_atBoundary_ref_iff (s : RefEngine) : atBoundary ref s = false ↔ s.time.toNat % 64 ≠ 0 := decide_eq_false_iff_not

/-- What a sample step does where a block begins. -/
theorem sampleStep_atBoundary {s : Engine N Post} (h : atBoundary P s = true) :
    sampleStep P s = advanceTime (renderVoices P (arpTick P (blockBoundary P s))) := by
  rw [sampleStep, if_pos h]

theorem arpTick_time (s : Engine N Post) : (arpTick P s).time = s.time := by rw [arpTick_frame]

theorem blockBoundary_time (s : Engine N Post) : (blockBoundary P s).time = s.time := by rw [blockBoundary_frame]

/-- The last steps of a sample step as one update: every slot's render, the output latch and TIME + 1. -/
theorem advanceTime_renderVoices (a : Engine N Post) :
    advanceTime (renderVoices P a) =
      { a with
        voices := a.voices.map fun v => (voiceRender P a v).2
        outL := (renderVoices P a).outL
        outR := (renderVoices P a).outL
        time := a.time + 1 } := by
  have hvoices : (renderVoices P a).voices = a.voices.map fun v => (voiceRender P a v).2 := by
    rw [renderVoices_voices, List.map_map]
    rfl
  rw [← hvoices]
  rfl

/-! ## A silent step (R232, R393) -/

theorem exactAdd_zero_zero : exactAdd (.rat 0) (.rat 0) = .rat 0 := by simp [exactAdd, exactSplit, exactAddRat]

/-- A sum of zeros is the number 0 itself, not an expression that denotes it. -/
theorem numSum_ref_zeros {α : Type} (xs : List α) : numSum ref (xs.map fun _ => .rat 0) = .rat 0 := by
  rw [numSum, List.foldl_map]
  exact List.foldl_fixed' (fun _ => exactAdd_zero_zero) xs

/-- With every voice Free, no slot changes and the outputs are 0. -/
theorem renderVoices_free {s : RefEngine} (h : ∀ v ∈ s.voices, voiceState ref s.active v = .free) :
    renderVoices ref s = { s with outL := .rat 0, outR := .rat 0 } := by
  have hrendered : s.voices.map (voiceRender ref s) = s.voices.map fun v => (Exact.rat 0, v) :=
    List.map_congr_left fun v hv => voiceRender_free ref s v (h v hv)
  have hsum : numSum ref ((s.voices.map fun v => (Exact.rat 0, v)).map Prod.fst) = .rat 0 := by
    rw [List.map_map]
    exact numSum_ref_zeros s.voices
  have hvoices : (s.voices.map fun v => (Exact.rat 0, v)).map Prod.snd = s.voices := by
    rw [List.map_map]
    exact List.map_id s.voices
  simp only [renderVoices, hrendered, hsum, hvoices]

/-- Settles O54: at a boundary or off one, a step ends with the render and TIME + 1 of the ticked state; a stopped sequencer's tick
and the render of Free voices change nothing. -/
theorem sampleStepOrder : Obligations.SampleStepOrder := by
  constructor
  · intro s a hat hoff
    obtain ⟨hstep, htime⟩ : sampleStep ref s = advanceTime (renderVoices ref a) ∧ a.time = s.time := by
      by_cases h : s.time.toNat % 64 = 0
      · obtain rfl := hat h
        exact ⟨sampleStep_atBoundary ((atBoundary_ref_iff s).2 h), (arpTick_time _).trans (blockBoundary_time s)⟩
      · obtain rfl := hoff h
        exact ⟨sampleStep_inside ((not_atBoundary_ref_iff s).2 h), arpTick_time s⟩
    rw [hstep, advanceTime_outL, ← htime]
    exact ⟨advanceTime_renderVoices a, renderVoices_outL_toReal a⟩
  · intro s htime hstopped hfree
    rw [sampleStep_inside ((not_atBoundary_ref_iff s).2 htime), arpTick_stopped hstopped, renderVoices_free hfree]
    rfl

end Sys2Proof.Machine
end

section
/-! SUPPORT. TICK (47_sample_clock.md R390): sample steps in a row, what they leave alone, and that the allocator's events are only
added to (00_scope.md R4). -/

namespace Sys2Proof.Machine

variable {N Post : Type} {P : Config.Params N Post}

/-! ## Operations that only add events -/

/-- `f` keeps the events received before it. -/
def OnlyAddsEvents (f : Engine N Post → Engine N Post) : Prop := ∀ s, s.events <+: (f s).events

theorem onlyAddsEvents_of_eq {f : Engine N Post → Engine N Post} (h : ∀ s, (f s).events = s.events) : OnlyAddsEvents f :=
  fun s => ⟨[], by rw [List.append_nil, h s]⟩

theorem onlyAddsEvents_id : OnlyAddsEvents (id : Engine N Post → Engine N Post) := onlyAddsEvents_of_eq fun _ => rfl

/-- One operation after another. -/
theorem OnlyAddsEvents.comp {f g : Engine N Post → Engine N Post} (hf : OnlyAddsEvents f) (hg : OnlyAddsEvents g) :
    OnlyAddsEvents fun s => g (f s) := fun s => (hf s).trans (hg (f s))

/-- One operation or the other. -/
theorem OnlyAddsEvents.cond {c : Engine N Post → Bool} {f g : Engine N Post → Engine N Post} (hf : OnlyAddsEvents f)
    (hg : OnlyAddsEvents g) : OnlyAddsEvents fun s => if c s then f s else g s := by
  intro s
  dsimp only
  split
  · exact hf s
  · exact hg s

theorem arpGateClose_onlyAddsEvents : OnlyAddsEvents (arpGateClose P) := by
  intro s
  rw [arpGateClose_events]
  split
  · exact ⟨_, rfl⟩
  · exact ⟨[], List.append_nil _⟩

theorem arpDisable_onlyAddsEvents : OnlyAddsEvents (arpDisable P) := arpGateClose_onlyAddsEvents

theorem arpFire_onlyAddsEvents : OnlyAddsEvents (arpFire P) := by
  intro s
  rw [arpFire_events]
  exact ⟨_, rfl⟩

theorem arpStepped_onlyAddsEvents : OnlyAddsEvents (arpStepped P) := by
  intro s
  rw [arpStepped_eq, noteClosed_frame]
  exact arpGateClose_onlyAddsEvents s

theorem arpStepEnd_onlyAddsEvents : OnlyAddsEvents (arpStepEnd P) := by
  intro s
  cases hover : stepOver P s with
  | false => rw [arpStepEnd_inside hover]
  | true =>
    rw [arpStepEnd_over hover]
    exact arpStepped_onlyAddsEvents.comp arpFire_onlyAddsEvents s

theorem arpGateEnd_onlyAddsEvents : OnlyAddsEvents (arpGateEnd P) :=
  OnlyAddsEvents.cond (c := fun s => s.arpGateOpen && decide (arpGateFraction P s.active < 1) && gateOver P s)
    arpGateClose_onlyAddsEvents onlyAddsEvents_id

theorem arpTick_onlyAddsEvents : OnlyAddsEvents (arpTick P) := by
  intro s
  cases hrun : s.arpRun with
  | false => rw [arpTick_stopped hrun]
  | true =>
    rw [arpTick_running hrun]
    exact arpStepEnd_onlyAddsEvents.comp arpGateEnd_onlyAddsEvents s

theorem install_onlyAddsEvents : OnlyAddsEvents (install P) := by
  have hcopied : OnlyAddsEvents fun s : Engine N Post => { s with active := s.pending, pendingValid := false } :=
    onlyAddsEvents_of_eq fun _ => rfl
  exact OnlyAddsEvents.cond (c := fun s => s.pendingValid)
    (OnlyAddsEvents.cond (c := fun s => arpOn P s.active && !arpOn P s.pending) (hcopied.comp arpDisable_onlyAddsEvents) hcopied)
    onlyAddsEvents_id

theorem blockBoundary_onlyAddsEvents : OnlyAddsEvents (blockBoundary P) := by
  intro s
  rw [blockBoundary_afterInstall]
  exact install_onlyAddsEvents s

theorem sampleStep_onlyAddsEvents : OnlyAddsEvents (sampleStep P) :=
  (OnlyAddsEvents.cond (c := atBoundary P) blockBoundary_onlyAddsEvents onlyAddsEvents_id).comp arpTick_onlyAddsEvents

/-! ## Sample steps in a row (R390) -/

theorem sampleSteps_eq_iterate (n : Nat) : sampleSteps P n = (sampleStep P)^[n] := by
  funext s
  induction n generalizing s with
  | zero => rfl
  | succ n ih => exact ih (sampleStep P s)

theorem sampleSteps_onlyAddsEvents (n : Nat) : OnlyAddsEvents (sampleSteps P n) := by
  induction n with
  | zero => exact onlyAddsEvents_id
  | succ n ih => exact sampleStep_onlyAddsEvents.comp ih

/-- Sample steps leave SHADOW, PENDING and the latches alone. -/
theorem sampleSteps_frame (n : Nat) (s : Engine N Post) :
    (sampleSteps P n s).shadow = s.shadow ∧ (sampleSteps P n s).pending = s.pending ∧
      (sampleSteps P n s).modWheel = s.modWheel ∧ (sampleSteps P n s).aftertouch = s.aftertouch ∧
      (sampleSteps P n s).pitchBend = s.pitchBend ∧ (sampleSteps P n s).lfoIn = s.lfoIn := by
  induction n generalizing s with
  | zero => exact ⟨rfl, rfl, rfl, rfl, rfl, rfl⟩
  | succ n ih =>
    obtain ⟨-, hmod, hafter, hbend, hlfo, hshadow, hpending⟩ := sampleStep_frame P s
    rw [← hshadow, ← hpending, ← hmod, ← hafter, ← hbend, ← hlfo]
    exact ih (sampleStep P s)

/-! ## TICK as an instruction (R390) -/

theorem exec_tick (c : BitVec 32) (s : State) : exec (.tick c) s = .next (s.onEngine (sampleSteps ref c.toNat)) :=
  exec_eq_engineExec (.tick c) s

theorem onEngine_sampleSteps_add (m n : Nat) (s : State) :
    (s.onEngine (sampleSteps ref m)).onEngine (sampleSteps ref n) = s.onEngine (sampleSteps ref (m + n)) := by
  simp only [State.onEngine, sampleSteps_add]

/-- Settles O53: TICK is an iterate of the sample step, so counts add, and each step keeps the frame and the events before it. -/
theorem tickRunsSampleSteps : Obligations.TickRunsSampleSteps := by
  refine ⟨fun c s => ?iterate, fun s => ?none, fun c d s t hsum ht => ?sum, fun c s t ht => ?frame⟩
  case iterate => rw [exec_tick, sampleSteps_eq_iterate]
  case none => rfl
  case sum =>
    rw [exec_tick] at ht
    cases ht
    rw [exec_tick, exec_tick, onEngine_sampleSteps_add, BitVec.toNat_add, Nat.mod_eq_of_lt hsum]
  case frame =>
    rw [exec_tick] at ht
    cases ht
    obtain ⟨hshadow, hpending, hmod, hafter, hbend, hlfo⟩ := sampleSteps_frame (P := ref) c.toNat s.toEngine
    obtain ⟨new, hnew⟩ := sampleSteps_onlyAddsEvents (P := ref) c.toNat s.toEngine
    exact ⟨hshadow, hpending, hmod, hafter, hbend, hlfo, rfl, new, hnew.symm⟩

end Sys2Proof.Machine
end

section
/-! SUPPORT. Power-on reset: the reset voice, the words of the reset banks, and BASE() of them (70_reset_and_hazards.md R431, R432;
10_state.md R58). -/

namespace Sys2Proof.Machine

variable {N Post : Type} (P : Config.Params N Post)

/-! ## The reset voice (R48-R52) -/

/-- The pool of a reset engine holds reset voices only. -/
theorem eq_voiceReset_of_mem {v : Voice N Post} (hv : v ∈ (Engine.reset P).voices) : v = Voice.reset P :=
  List.eq_of_mem_replicate hv

theorem voiceEnv_reset (t : EnvType) (l : Line) : voiceEnv (Voice.reset P) t l = Env.reset P := by
  cases t <;> cases l <;> rfl

theorem voiceOsc_reset (l : Line) : voiceOsc (Voice.reset P) l = Osc.reset := by
  cases l <;> rfl

/-- A reset voice is Free under every bank: neither of its DCA units is active. -/
theorem voiceState_reset (b : Bank) : voiceState P b (Voice.reset P) = .free := by
  rw [voiceState_eq_free_iff]
  exact Bool.and_false _

theorem envOk_reset : EnvOk (Env.reset ref) := by decide +kernel

theorem voiceOk_reset : VoiceOk (Voice.reset ref) :=
  voiceOk_iff.2 ⟨by decide +kernel, by decide, fun t l => by rw [voiceEnv_reset]; exact envOk_reset⟩

/-! ## The reset banks (R58) -/

/-- An empty bank reads as the reset words. -/
theorem bankRead_nil (pool : Nat) (r : Reg) : bankRead pool [] r = resetWord pool r := rfl

/-- R58's list of reset words, by address. -/
def resetListing (pool a : Nat) : ParamWord :=
  if a = 0x040 then 0x80008000#32
  else if a = 0x041 then 0x00008000#32
  else if a = 0x049 then 0x00000001#32
  else if a ∈ [0x008, 0x028, 0x068, 0x088, 0x0A8] then 0x0000000F#32
  else if a ∈ [0x102, 0x103] then 0x00008000#32
  else if a = 0x10B then 0x00000C00#32
  else if a = 0x110 then BitVec.ofNat 32 pool
  else if a = 0x120 then 0x00000080#32
  else if a = 0x121 then 0x00000780#32
  else if a = 0x122 then 0x00004000#32
  else 0#32

/-- The list ends below the effect registers. -/
theorem resetListing_of_ge (pool : Nat) {a : Nat} (ha : 0x180 ≤ a) : resetListing pool a = 0#32 := by
  have hne : ∀ c < 0x180, a ≠ c := fun c hc => by omega
  simp [resetListing, hne]

/-- Register by register, the model's reset word is the one R58 lists at the register's address. -/
theorem resetWord_eq_resetListing (pool : Nat) (r : Reg) : resetWord pool r = resetListing pool (regAddr r) := by
  cases r with
  | envStage t l s => cases t <;> cases l <;> fin_cases s <;> rfl
  | envSustain t l => cases t <;> cases l <;> rfl
  | envEnd t l => cases t <;> cases l <;> rfl
  | envInit t l => cases t <;> cases l <;> rfl
  | oscCfg l => cases l <;> rfl
  | oscLevel l => cases l <;> rfl
  | detune l => cases l <;> rfl
  | efx i => exact (resetListing_of_ge pool (Nat.le_add_right _ _)).symm
  | _ => rfl

/-- Every register of the three banks reads as R58 lists it. -/
theorem bankRead_reset {b : Bank} (hb : b ∈ [(Engine.reset P).shadow, (Engine.reset P).pending, (Engine.reset P).active])
    (r : Reg) : bankRead P.pool b r = resetListing P.pool (regAddr r) := by
  have hnil : b = [] := by simpa [Engine.reset, Block.reset] using hb
  rw [hnil, bankRead_nil, resetWord_eq_resetListing]

theorem bankOk_nil : BankOk [] := ⟨rfl, rfl⟩

/-! ## BASE() of the reset bank (R353) -/

/-- ARP_TEMPO 0x0780 is 120 beats a minute, and ARP_CTL 0x080 has DIV = 2, a quarter beat. -/
theorem baseLength_nil : baseLength P [] = numOf P ((P.fs : ℚ) * 60 / 120 * (1 / 4)) := by
  have hbpm : arpBpm P [] = 120 := by
    rw [arpBpm, bankRead_nil, resetWord]
    decide +kernel
  have hdiv : arpDivision P [] = 2 := by
    rw [arpDivision, bankField, bankRead_nil, resetWord]
    decide
  rw [baseLength, hbpm, hdiv, beats]

/-- 6000 samples at the reference rate of 48000 a second. -/
theorem baseLength_ref_nil : baseLength ref [] = .rat 6000 := by
  rw [baseLength_nil, ref_fs, numOf_ref]
  norm_num

/-! ## The obligations -/

theorem arpLengthsOk_reset : ArpLengthsOk (Engine.reset ref) := by
  have hacc : (Engine.reset ref).arpAcc = .rat 0 := rfl
  have hlen : (Engine.reset ref).arpLen = .rat 6000 := baseLength_ref_nil
  have hbase : (Engine.reset ref).arpBase = .rat 6000 := baseLength_ref_nil
  rw [ArpLengthsOk, hacc, hlen, hbase, toReal_rat, toReal_rat]
  exact ⟨isLinear_rat 0, by norm_num, isLinear_rat 6000, by norm_num, by decide +kernel⟩

theorem outputOk_reset : OutputOk (Engine.reset ref) := by
  have hout : (Engine.reset ref).outL.toReal = 0 := Rat.cast_zero
  rw [OutputOk, hout]
  exact ⟨rfl, by norm_num, by norm_num⟩

/-- Settles O59: each part of the invariant holds of the part of the reset state it speaks of. -/
theorem resetInv : Obligations.ResetInv where
  shadow := bankOk_nil
  pending := bankOk_nil
  active := bankOk_nil
  latches := by decide +kernel
  pool := ⟨rfl, fun _ hv => eq_voiceReset_of_mem ref hv ▸ voiceOk_reset, by decide, by decide⟩
  arp := by decide
  lengths := arpLengthsOk_reset
  output := outputOk_reset

/-- Settles O60: the elements are read off the reset state, its voices are reset voices, and its three banks are empty. -/
theorem resetValues : Obligations.ResetValues := by
  refine ⟨?elements, fun v hv => ?voice, ?instances⟩
  case elements =>
    have hbase : State.reset.arpBase = .rat 6000 := baseLength_ref_nil
    have hlen : State.reset.arpLen = .rat 6000 := baseLength_ref_nil
    exact ⟨rfl, rfl, rfl, rfl, rfl, rfl, rfl, rfl, rfl, rfl, rfl, rfl, rfl, rfl, rfl, rfl, hlen, hbase, rfl, rfl, rfl⟩
  case voice =>
    obtain rfl := eq_voiceReset_of_mem ref hv
    exact ⟨voiceState_reset ref _, rfl, rfl, rfl, rfl, rfl, rfl, voiceOsc_reset ref, voiceEnv_reset ref⟩
  case instances =>
    rintro N Post P s rfl
    have hvoices : ∀ v ∈ (Engine.reset P).voices,
        v.post = P.postInit ∧ voiceState P (Engine.reset P).active v = .free := by
      intro v hv
      obtain rfl := eq_voiceReset_of_mem P hv
      exact ⟨rfl, voiceState_reset P _⟩
    exact ⟨baseLength_nil P, rfl, List.length_replicate, hvoices, fun _ hb r => bankRead_reset P hb r⟩

end Sys2Proof.Machine
end
